-- ==== Sys2Proof/Word.lean ====
section
/-! DEFINITION. The word types of the block: bytes, 32-bit bus and command words, 64-bit lanes (00_scope.md R8, R9, R11). -/

namespace Sys2Proof

/-- One byte of a byte string, of the DATA buffer or of the state (R32, R79). -/
abbrev Byte := BitVec 8

/-- A 32-bit register, bus or command word (R9, R100). -/
abbrev Word := BitVec 32

/-- One 64-bit lane of the permutation state (R8, R31). -/
abbrev Lane := BitVec 64

end Sys2Proof
end

