-- ==== Sys2Proof/Config.lean ====
section
/-! DEFINITION. The values the spec leaves open (93_implementation_defined.md U1, U5). None has a body: nothing can be proved about
which value it is. The open parameters BASE and N_ENGINES are arguments of Machine/Platform.lean, T_CMD is the field `pace` of State.
Every value is chosen by the number of the engine and of its reset, so that two engines, and two resets of one, share none
(log entry 19). -/

namespace Sys2Proof

/-- U1: the byte of DATA at an index, after a reset of an engine, until something writes it: "each of the 256 bytes takes an arbitrary
value, chosen once at reset and stable until written". Log entry 1. -/
opaque Config.unwrittenByte (engine reset index : Nat) : Byte

/-- U5: what a read that was held when `rst` was asserted gets: "any value or no response". The spec is silent on the error flag of
such an answer; the model leaves it free with the value. `place` is the access's place among the held ones. Log entry 6. -/
opaque Config.heldReadAtReset (engine reset place : Nat) : Option (Bool × Word)

/-- U5: whether a write that was held when `rst` was asserted is "performed on the reset state" (true) or "lost" (false). Log entry 6. -/
opaque Config.heldWriteAtReset (engine reset place : Nat) : Bool

/-- What a lost write (U5) gets: an answer, with any error flag and value, or none. The spec is silent on it; the model leaves it free.
Log entry 6. -/
opaque Config.lostWriteAnswer (engine reset place : Nat) : Option (Bool × Word)

end Sys2Proof
end

