-- ==== Sys2Proof/Syntax.lean ====
section
/-! DEFINITION. The commands of the block, one constructor per row of spec/opcode_table.json (30_encoding.md R104). -/

namespace Sys2Proof

/-- A command. The operand fields are unsigned numbers (R103): `rate` and `pad` of the custom INIT, `off` and `len` of a DATA range. Which
numbers fit their fields is `Instr.wellFormed`; which of those are legal is checked at execution (R103, R246). -/
inductive Instr where
  /-- NOP, no operation (R150). -/
  | nop
  /-- CLEAR, the explicit reset of the permutation state (R151). -/
  | clear
  /-- INIT with VARIANT = 0, the custom form (R180). -/
  | init (rate pad : Nat)
  /-- INIT SHA3-224, VARIANT = 1 (R171, R180). -/
  | initSha3_224
  /-- INIT SHA3-256, VARIANT = 2. -/
  | initSha3_256
  /-- INIT SHA3-384, VARIANT = 3. -/
  | initSha3_384
  /-- INIT SHA3-512, VARIANT = 4. -/
  | initSha3_512
  /-- INIT SHAKE128, VARIANT = 5. -/
  | initShake128
  /-- INIT SHAKE256, VARIANT = 6. -/
  | initShake256
  /-- INIT KECCAK256, VARIANT = 7. -/
  | initKeccak256
  /-- ABSORB the message bytes DATA[off .. off+len-1] (R183). -/
  | absorb (off len : Nat)
  /-- FINAL, the padding and its permutation (R186). -/
  | final
  /-- SQUEEZE output to DATA[off .. off+len-1] (R190). -/
  | squeeze (off len : Nat)
  /-- PERMUTE the lane file (R152). -/
  | permute
  /-- ETHADDR of the public key at DATA[off .. off+len-1] (R225). -/
  | ethaddr (off len : Nat)
  /-- EIP55 re-casing of the address text at DATA[off .. off+len-1] (R228). -/
  | eip55 (off len : Nat)
  deriving DecidableEq, Repr

end Sys2Proof
end

