-- ==== Sys2Proof/WellFormed.lean ====
section
/-! DEFINITION. Which operand numbers fit their encoding fields (30_encoding.md R102, R103): what the assembler of R107 refuses
("off > 255, len > 511, r > 255, p > 3"). -/

namespace Sys2Proof

/-- RATE is 8 bits wide and PAD 2 (R103). -/
def fitsI (rate pad : Nat) : Bool := decide (rate < 256) && decide (pad < 4)

/-- OFF is 8 bits wide and LEN 9 (R103). -/
def fitsM (off len : Nat) : Bool := decide (off < 256) && decide (len < 512)

/-- The operands fit their fields; a value that fits but is illegal at execution is well-formed (R103, R107). -/
def Instr.wellFormed : Instr → Bool
  | .nop => true
  | .clear => true
  | .init rate pad => fitsI rate pad
  | .initSha3_224 => true
  | .initSha3_256 => true
  | .initSha3_384 => true
  | .initSha3_512 => true
  | .initShake128 => true
  | .initShake256 => true
  | .initKeccak256 => true
  | .absorb off len => fitsM off len
  | .final => true
  | .squeeze off len => fitsM off len
  | .permute => true
  | .ethaddr off len => fitsM off len
  | .eip55 off len => fitsM off len

end Sys2Proof
end

