-- ==== Sys2Proof/Decode.lean ====
section
/-! DEFINITION. Command words to commands and back (30_encoding.md R100 to R106). -/

namespace Sys2Proof

/-- Why a word is no command: the five cases of R105. Each completes with IllegalCommand, so the reason is only a name. -/
inductive Illegal where
  /-- OPC is in [0x09, 0xFF]. -/
  | reservedOpcode
  /-- A Format N word has w[31:8] != 0. -/
  | reservedBitsN
  /-- A Format I word has w[11], w[15:14] or w[31:24] nonzero. -/
  | reservedBitsI
  /-- A Format I word has VARIANT != 0 and (PAD != 0 or RATE != 0). -/
  | presetWithOperands
  /-- A Format M word has w[31:25] != 0. -/
  | reservedBitsM
  deriving DecidableEq, Repr

/-- The field `w[lo+n-1 : lo]` as an unsigned number (R11, R103). -/
def field (w : Word) (lo n : Nat) : Nat := w.toNat / 2 ^ lo % 2 ^ n

/-- Format N (R102): no operand, bits 31:8 zero. -/
def decodeN (i : Instr) (w : Word) : Except Illegal Instr :=
  if field w 8 24 ≠ 0 then .error .reservedBitsN else .ok i

/-- Format M (R102): LEN in bits 24:16, OFF in bits 15:8, bits 31:25 zero. -/
def decodeM (i : Nat → Nat → Instr) (w : Word) : Except Illegal Instr :=
  if field w 25 7 ≠ 0 then .error .reservedBitsM else .ok (i (field w 8 8) (field w 16 9))

/-- The preset commands by their VARIANT code 1 to 7 (R104, R171). -/
def presetOf (code : Nat) : Instr :=
  match code with
  | 1 => .initSha3_224
  | 2 => .initSha3_256
  | 3 => .initSha3_384
  | 4 => .initSha3_512
  | 5 => .initShake128
  | 6 => .initShake256
  | _ => .initKeccak256

/-- Format I (R102, R105): VARIANT in bits 10:8, PAD in bits 13:12, RATE in bits 23:16. -/
def decodeI (w : Word) : Except Illegal Instr :=
  if field w 11 1 ≠ 0 ∨ field w 14 2 ≠ 0 ∨ field w 24 8 ≠ 0 then .error .reservedBitsI
  else if field w 8 3 = 0 then .ok (.init (field w 16 8) (field w 12 2))
  else if field w 12 2 ≠ 0 ∨ field w 16 8 ≠ 0 then .error .presetWithOperands
  else .ok (presetOf (field w 8 3))

/-- R106: every 32-bit word is exactly one command or illegal. -/
def decode (w : Word) : Except Illegal Instr :=
  match field w 0 8 with
  | 0x00 => decodeN .nop w
  | 0x01 => decodeN .clear w
  | 0x02 => decodeI w
  | 0x03 => decodeM .absorb w
  | 0x04 => decodeN .final w
  | 0x05 => decodeM .squeeze w
  | 0x06 => decodeN .permute w
  | 0x07 => decodeM .ethaddr w
  | 0x08 => decodeM .eip55 w
  | _ => .error .reservedOpcode

/-- A Format I word (R102, R107). -/
def encodeI (variant pad rate : Nat) : Word := BitVec.ofNat 32 (0x02 + variant * 2 ^ 8 + pad * 2 ^ 12 + rate * 2 ^ 16)

/-- A Format M word (R102, R107). -/
def encodeM (opc off len : Nat) : Word := BitVec.ofNat 32 (opc + off * 2 ^ 8 + len * 2 ^ 16)

/-- The word of a command (R104, R107); it is the command's own for a well-formed one. -/
def encode : Instr → Word
  | .nop => 0x00000000
  | .clear => 0x00000001
  | .init rate pad => encodeI 0 pad rate
  | .initSha3_224 => encodeI 1 0 0
  | .initSha3_256 => encodeI 2 0 0
  | .initSha3_384 => encodeI 3 0 0
  | .initSha3_512 => encodeI 4 0 0
  | .initShake128 => encodeI 5 0 0
  | .initShake256 => encodeI 6 0 0
  | .initKeccak256 => encodeI 7 0 0
  | .absorb off len => encodeM 0x03 off len
  | .final => 0x00000004
  | .squeeze off len => encodeM 0x05 off len
  | .permute => 0x00000006
  | .ethaddr off len => encodeM 0x07 off len
  | .eip55 off len => encodeM 0x08 off len

/-- A command is the 32 bits of one CMD write (R100). -/
def wordOfTable (nbits w : Nat) : Word := BitVec.ofNat 32 (w % 2 ^ nbits)

/-- The command the decoder reads from a table word of `nbits` bits; a word that needs more than 32 bits is no CMD write (R100). -/
def decodeTableWord (nbits w : Nat) : Option Instr :=
  if w % 2 ^ nbits < 2 ^ 32 then (decode (wordOfTable nbits w)).toOption else none

end Sys2Proof
end

