-- ==== Sys2Proof/Machine/State.lean ====
section
/-! DEFINITION. The state of one engine as plain data (10_state.md), its inputs and answers, the reasons a step can stop, and reset. -/

namespace Sys2Proof.Machine

/-- The lane file A[0..24] (R31): always exactly 25 words. -/
abbrev Lanes := Vector Lane 25

/-- PHASE (R35). The value 3 never occurs (U8). -/
inductive Phase where
  | idle
  | absorb
  | squeeze
  deriving DecidableEq, Repr

/-- The padding rules (R170): keccak_original(0x01), sha3_nist(0x06), shake(0x1F). No fourth can be configured (R181). -/
inductive PadRule where
  | keccakOriginal
  | sha3Nist
  | shake
  deriving DecidableEq, Repr

/-- CFG.VARIANT (R38, R171). -/
inductive Variant where
  | custom
  | sha3_224
  | sha3_256
  | sha3_384
  | sha3_512
  | shake128
  | shake256
  | keccak256
  deriving DecidableEq, Repr

/-- The error codes of R241; 8 to 15 are never produced (U3). -/
inductive ErrorCode where
  | ok
  | illegalCommand
  | configurationError
  | sequenceError
  | bufferRange
  | invalidKeySize
  | invalidEncoding
  | outputLength
  deriving DecidableEq, Repr

/-- The DATA bytes that something has written since reset, by index 0 to 255 (R79). An index not listed has no value of its own here:
`State.dataRead` gives it the free value of U1. Canonical form: `Memory.wf`. -/
abbrev Memory := List Host.Cell

/-- The indexes rise strictly from `lo` on, and all are inside the buffer. -/
def Memory.wfFrom (lo : Nat) : Memory → Bool
  | [] => true
  | (k, _) :: m => decide (lo ≤ k) && decide (k < 256) && Memory.wfFrom (k + 1) m

/-- The canonical form: indexes strictly rising and below 256. -/
def Memory.wf (m : Memory) : Bool := Memory.wfFrom 0 m

/-- What a host access asks for (R14): a read, or a write of the low bytes of a bus word. -/
inductive BusOp where
  | read
  | write (value : Word)
  deriving DecidableEq, Repr

/-- One host access as it reaches the block: who issued it, the byte offset in the 1024-byte block (R70), its size in bytes (R74). -/
structure Request where
  agent  : Nat
  offset : BitVec 10
  size   : Nat
  op     : BusOp
  deriving DecidableEq, Repr

/-- What the bus answers: to whom, whether with the error response, and the value read (R75). -/
structure Response where
  agent : Nat
  error : Bool
  value : Word
  deriving DecidableEq, Repr

/-- What comes from outside: a host access, or the assertion of `rst` (R280). -/
inductive Input where
  | access (r : Request)
  | reset
  deriving DecidableEq, Repr

/-- One engine (10_state.md R54 lists the spec's state; the last six fields are the model's own, INVENTORY.md). -/
structure State where
  /-- The lane file (R31). -/
  lanes : Lanes
  /-- PHASE (R35). -/
  phase : Phase
  /-- POS, 8 bits (R36). -/
  pos : BitVec 8
  /-- OUTCNT, 32 bits (R37). -/
  outcnt : BitVec 32
  /-- CFG.RATE, 8 bits (R38). -/
  rate : BitVec 8
  /-- CFG.PAD (R38). -/
  pad : PadRule
  /-- CFG.VARIANT (R38). -/
  variant : Variant
  /-- CFG.OUTLEN, 8 bits (R38). -/
  outlen : BitVec 8
  /-- The accepted command that has not completed (R39); STATUS.BUSY is 1 exactly when there is one (log entry 8). -/
  held : Option Word
  /-- STATUS.DONE (R40). -/
  done : Bool
  /-- STATUS.ERR (R40). -/
  err : Bool
  /-- STATUS.ERRCODE (R40). -/
  errcode : ErrorCode
  /-- ERRINFO (R43). -/
  errinfo : Word
  /-- CTRL.IE (R41). -/
  ie : Bool
  /-- The written bytes of DATA (R79). -/
  data : Memory
  /-- How many more steps BUSY lasts before the held command runs (R290, log entry 2). -/
  busyLeft : Nat
  /-- T_CMD of the commands still to be accepted, in order; none listed is 0 (R10, R290, log entry 2). -/
  pace : List Nat
  /-- What has reached the block and is not performed yet, oldest first (R84, R85, log entry 3). -/
  inputs : List Input
  /-- What the bus has answered, oldest first (log entry 3). -/
  responses : List Response
  /-- How often `rst` has been asserted: picks the free values of U1 and U5 (log entry 5). -/
  resets : Nat
  /-- Which engine of its platform this is: picks the free values of U1 and U5 (log entry 19). Nothing writes or shows it. -/
  engine : Nat
  deriving DecidableEq, Repr

/-- R54: every piece of state right after reset. DATA lists nothing (U1). The model's own fields are DESIGN CHOICES (log entries 2, 3, 5, 19). -/
def State.reset : State where
  lanes := Vector.replicate 25 0
  phase := .idle
  pos := 0
  outcnt := 0
  rate := 0
  pad := .keccakOriginal
  variant := .custom
  outlen := 0
  held := none
  done := false
  err := false
  errcode := .ok
  errinfo := 0
  ie := false
  data := []
  busyLeft := 0
  pace := []
  inputs := []
  responses := []
  resets := 0
  engine := 0

/-- There is no fault: "The block never traps, halts or hangs on an error" (R240). Nobody raises one (log entry 9). -/
inductive Fault where
  deriving DecidableEq, Repr

/-- Why a command is refused. -/
inductive Refusal where
  /-- The command has no meaning in the model yet. Only an arm of `exec` may answer it, and none does (safe). -/
  | notModelled (mnemonic : String)
  deriving DecidableEq, Repr

end Sys2Proof.Machine
end

