-- ==== Sys2Proof/Machine/Keccak.lean ====
section
/-! DEFINITION. The permutation Keccak-f[1600] as a function of the 25 lanes (40_permutation.md R130 to R145), and the lane file as
200 bytes (10_state.md R31, R32). -/

namespace Sys2Proof.Machine

/-- ROTL64 (R12). -/
def rotl64 (v : Lane) (n : Nat) : Lane := v <<< (n % 64) ||| v >>> (64 - n % 64)

/-- A[i] (R13); there is none above 24. -/
def Lanes.lane (A : Lanes) (i : Nat) : Lane := A.toList.getD i 0

/-- A[x, y] = A[x + 5*y], both indexes modulo 5 (R12, R31). -/
def Lanes.xy (A : Lanes) (x y : Nat) : Lane := A.lane (x % 5 + 5 * (y % 5))

/-- The lane file whose lane (x, y) is `f x y`: all lanes are computed from the inputs before any is written (R131). -/
def Lanes.build (f : Nat → Nat → Lane) : Lanes :=
  #v[f 0 0, f 1 0, f 2 0, f 3 0, f 4 0,
     f 0 1, f 1 1, f 2 1, f 3 1, f 4 1,
     f 0 2, f 1 2, f 2 2, f 3 2, f 4 2,
     f 0 3, f 1 3, f 2 3, f 3 3, f 4 3,
     f 0 4, f 1 4, f 2 4, f 3 4, f 4 4]

/-- All 25 lanes zero. -/
def Lanes.zero : Lanes := Vector.replicate 25 0

/-- The parity C[x] of column x (R132). -/
def columnParity (A : Lanes) (x : Nat) : Lane := A.xy x 0 ^^^ A.xy x 1 ^^^ A.xy x 2 ^^^ A.xy x 3 ^^^ A.xy x 4

/-- R132: C[x], then D[x] = C[x-1] ^ ROTL64(C[x+1], 1), then every lane of column x XOR D[x]. -/
def theta (A : Lanes) : Lanes :=
  let C := [columnParity A 0, columnParity A 1, columnParity A 2, columnParity A 3, columnParity A 4]
  let D := [0, 1, 2, 3, 4].map fun x => C.getD ((x + 4) % 5) 0 ^^^ rotl64 (C.getD ((x + 1) % 5) 0) 1
  Lanes.build fun x y => A.xy x y ^^^ D.getD x 0

/-- The offsets r[x, y] by lane index x + 5*y (R134). -/
def rhoOffsets : List Nat :=
  [0, 1, 62, 28, 27, 36, 44, 6, 55, 20, 3, 10, 43, 25, 39, 41, 45, 15, 21, 8, 18, 2, 61, 56, 14]

/-- R133. -/
def rho (A : Lanes) : Lanes := Lanes.build fun x y => rotl64 (A.xy x y) (rhoOffsets.getD (x + 5 * y) 0)

/-- R135, by the inverse map: A'[x, y] = A[(x + 3*y) mod 5, x]. -/
def piStep (A : Lanes) : Lanes := Lanes.build fun x y => A.xy (x + 3 * y) x

/-- R136. -/
def chi (A : Lanes) : Lanes := Lanes.build fun x y => A.xy x y ^^^ (~~~(A.xy (x + 1) y) &&& A.xy (x + 2) y)

/-- The round constants RC[0..23] (R138). -/
def roundConstants : List Lane :=
  [0x0000000000000001, 0x0000000000008082, 0x800000000000808A, 0x8000000080008000,
   0x000000000000808B, 0x0000000080000001, 0x8000000080008081, 0x8000000000008009,
   0x000000000000008A, 0x0000000000000088, 0x0000000080008009, 0x000000008000000A] ++
  [0x000000008000808B, 0x800000000000008B, 0x8000000000008089, 0x8000000000008003,
   0x8000000000008002, 0x8000000000000080, 0x000000000000800A, 0x800000008000000A,
   0x8000000080008081, 0x8000000000008080, 0x0000000080000001, 0x8000000080008008]

/-- R137: RC[ir] into lane (0, 0) only. -/
def iota (A : Lanes) (ir : Nat) : Lanes := A.setIfInBounds 0 (A.lane 0 ^^^ roundConstants.getD ir 0)

/-- One round (R130). -/
def keccakRound (A : Lanes) (ir : Nat) : Lanes := iota (chi (piStep (rho (theta A)))) ir

/-- Keccak-f[1600] (R130): always 24 rounds. -/
def keccakF (A : Lanes) : Lanes := (List.range 24).foldl keccakRound A

/-- StateByte(j) (R32): byte j mod 8 of lane j div 8, least significant first. Above 199 there is none (log entry 7). -/
def Lanes.byte (A : Lanes) (j : Nat) : Byte := (A.lane (j / 8) >>> (8 * (j % 8))).setWidth 8

/-- StateByte(j) ^= b (R32). -/
def Lanes.xorByte (A : Lanes) (j : Nat) (b : Byte) : Lanes :=
  A.setIfInBounds (j / 8) (A.lane (j / 8) ^^^ (b.setWidth 64 <<< (8 * (j % 8))))

/-- StateByte(j) <- b (R78): the byte is replaced, the rest of its lane stays. -/
def Lanes.setByte (A : Lanes) (j : Nat) (b : Byte) : Lanes := A.xorByte j (A.byte j ^^^ b)

end Sys2Proof.Machine
end

