-- ==== Sys2Proof/Machine/Flags.lean ====
section
/-! DEFINITION. The codes of the fields and the register words composed of them (10_state.md R35 to R48), and the interrupt output
(60_exceptions.md R255). -/

namespace Sys2Proof.Machine

/-- R35. -/
def Phase.code : Phase → Nat
  | .idle => 0
  | .absorb => 1
  | .squeeze => 2

/-- R38. -/
def PadRule.code : PadRule → Nat
  | .keccakOriginal => 0
  | .sha3Nist => 1
  | .shake => 2

/-- R171. -/
def Variant.code : Variant → Nat
  | .custom => 0
  | .sha3_224 => 1
  | .sha3_256 => 2
  | .sha3_384 => 3
  | .sha3_512 => 4
  | .shake128 => 5
  | .shake256 => 6
  | .keccak256 => 7

/-- R241. -/
def ErrorCode.code : ErrorCode → Nat
  | .ok => 0
  | .illegalCommand => 1
  | .configurationError => 2
  | .sequenceError => 3
  | .bufferRange => 4
  | .invalidKeySize => 5
  | .invalidEncoding => 6
  | .outputLength => 7

/-- STATUS.BUSY (R39, R40). -/
def State.busy (s : State) : Bool := s.held.isSome

/-- R255: irq = CTRL.IE & STATUS.DONE. -/
def State.irq (s : State) : Bool := s.ie && s.done

/-- STATUS (R40): BUSY 0, DONE 1, ERR 2, ERRCODE 11:8, PHASE 13:12, the rest 0. -/
def State.statusWord (s : State) : Word :=
  BitVec.ofNat 32 (s.busy.toNat + s.done.toNat * 2 ^ 1 + s.err.toNat * 2 ^ 2 + s.errcode.code * 2 ^ 8 + s.phase.code * 2 ^ 12)

/-- CFG (R48): RATE 7:0, PAD 9:8, VARIANT 14:12, OUTLEN 23:16, the rest 0. -/
def State.cfgWord (s : State) : Word :=
  BitVec.ofNat 32 (s.rate.toNat + s.pad.code * 2 ^ 8 + s.variant.code * 2 ^ 12 + s.outlen.toNat * 2 ^ 16)

/-- CTRL (R41): IE in bit 0, the rest 0. -/
def State.ctrlWord (s : State) : Word := BitVec.ofNat 32 s.ie.toNat

/-- The POS register (R44). -/
def State.posWord (s : State) : Word := s.pos.setWidth 32

/-- ID (R46), hardwired. -/
def idWord : Word := 0x4B454343

/-- VERSION (R47), hardwired. -/
def versionWord : Word := 0x00000001

end Sys2Proof.Machine
end

