-- ==== Sys2Proof/Machine/Operands.lean ====
section
/-! DEFINITION. The DATA buffer and the operand ranges of commands (20_memory.md R79, R82, R83), and the checks made on operands
(60_exceptions.md R244, R246). -/

namespace Sys2Proof.Machine

/-- The byte listed at an index, if something has written it since reset. -/
def Memory.read : Memory → Nat → Option Byte
  | [], _ => none
  | (k, b) :: m, a => if a = k then some b else Memory.read m a

/-- Writing keeps the list strictly rising. -/
def Memory.write : Memory → Nat → Byte → Memory
  | [], a, b => [(a, b)]
  | (k, c) :: m, a, b =>
    if a < k then (a, b) :: (k, c) :: m
    else if a = k then (a, b) :: m
    else (k, c) :: Memory.write m a b

/-- The bytes of `bs` to `a`, `a + 1`, ... in that order (R73). -/
def Memory.writeBytes (m : Memory) (a : Nat) : List Byte → Memory
  | [] => m
  | b :: bs => (m.write a b).writeBytes (a + 1) bs

/-- DataRead(k) (R14, R79): the byte last written, or the free value of U1 where nothing has written since reset. -/
def State.dataRead (s : State) (k : Nat) : Byte := (s.data.read k).getD (Config.unwrittenByte s.engine s.resets k)

/-- The operand bytes DataRead(OFF + k) for k = 0 .. LEN-1, in that order; OFF + k is an ordinary sum (R82). -/
def State.dataBytes (s : State) (off len : Nat) : List Byte := (List.range len).map fun k => s.dataRead (off + k)

/-- R82: the range check fails when OFF + LEN > 256. -/
def outOfRange (off len : Nat) : Bool := decide (256 < off + len)

/-- R244: the command is not admitted in the present phase. -/
def State.outside (s : State) (admitted : List Phase) : Bool := !admitted.contains s.phase

/-- R246: the error code of the first check that fails, in the order the checks are made. -/
def firstFailure : List (Bool × ErrorCode) → Option ErrorCode
  | [] => none
  | (fails, code) :: rest => if fails then some code else firstFailure rest

end Sys2Proof.Machine
end

