-- ==== Sys2Proof/Machine/Ops.lean ====
section
/-! DEFINITION. The operations commands share: completion with or without an error (60_exceptions.md R249, R250) and its clearing
(R252), the command template, KeccakF() on the lane file (R145), acceptance of a command word (10_state.md R42). -/

namespace Sys2Proof.Machine

/-- R249, the completion update, the block's "trap entry": ERRCODE, on an error ERR and ERRINFO too, then BUSY 0 and DONE 1. It saves
nothing else and goes nowhere (R251). -/
def State.complete (s : State) (w : Word) (code : ErrorCode) : State :=
  { s with
    errcode := code
    err := if code = .ok then s.err else true
    errinfo := if code = .ok then s.errinfo else w
    held := none
    done := true }

/-- The block's "trap return" (R252): a host write to STATUS clears DONE where bit 1 of the value is 1 and ERR where bit 2 is (R40). -/
def State.writeStatus (s : State) (v : Word) : State :=
  { s with done := s.done && !v.getLsbD 1, err := s.err && !v.getLsbD 2 }

/-- R105, R106: a word that is no command completes with IllegalCommand and changes nothing else. -/
def State.completeIllegal (s : State) (w : Word) : State := s.complete w .illegalCommand

/-- The template of every command (40_permutation.md section 2): the checks in order, the first that fails gives the error code and
nothing else changes (R246, R250); after them the pseudocode, then the completion update. -/
def State.command (s : State) (w : Word) (checks : List (Bool × ErrorCode)) (body : State → State) : State :=
  match firstFailure checks with
  | some code => s.complete w code
  | none => (body s).complete w .ok

/-- The outcome of a command: it always completes (R240). -/
def runCommand (i : Instr) (checks : List (Bool × ErrorCode)) (body : State → State) (s : State) :
    Host.Outcome State Fault Refusal := .next (s.command (encode i) checks body)

/-- KeccakF() (R145): the lane file in place, no other state. -/
def State.keccakF (s : State) : State := { s with lanes := Machine.keccakF s.lanes }

/-- The end of CLEAR, ETHADDR and EIP55 (R151, R225, R228): lanes zero, POS, OUTCNT zero, PHASE IDLE. -/
def State.toIdle (s : State) : State := { s with lanes := Lanes.zero, pos := 0, outcnt := 0, phase := .idle }

/-- Acceptance of a CMD write (R42): BUSY 1, DONE 0, the word held. How long BUSY lasts is the next entry of `pace` (log entry 2). -/
def State.accept (s : State) (w : Word) : State :=
  { s with held := some w, done := false, busyLeft := s.pace.headD 0, pace := s.pace.tail }

end Sys2Proof.Machine
end

