-- ==== Sys2Proof/Machine/Bus.lean ====
section
/-! DEFINITION. Host accesses to the register block (10_state.md R40 to R50, 20_memory.md R70 to R84). -/

namespace Sys2Proof.Machine

/-- R74: aligned 4-byte accesses below 0x100; naturally aligned 1-, 2- and 4-byte accesses above. Every other access is a bus error. -/
def Request.legal (r : Request) : Bool :=
  if r.offset.toNat < 0x100 then decide (r.size = 4) && decide (r.offset.toNat % 4 = 0)
  else (decide (r.size = 1) || decide (r.size = 2) || decide (r.size = 4)) && decide (r.offset.toNat % r.size = 0)

/-- A 4-byte access to STATUS (R84). -/
def Request.toStatus (r : Request) : Bool := decide (r.size = 4) && decide (r.offset = 0x00C)

/-- R84: while BUSY = 1 every access is held but those to STATUS and bus errors. -/
def Request.held (r : Request) : Bool := r.legal && !r.toStatus

/-- The register at an offset below 0x100 (R49); CMD and the reserved range read 0 (R42, R50). -/
def State.readRegister (s : State) (offset : Nat) : Word :=
  if offset = 0x000 then idWord
  else if offset = 0x004 then versionWord
  else if offset = 0x008 then s.ctrlWord
  else if offset = 0x00C then s.statusWord
  else if offset = 0x014 then s.cfgWord
  else if offset = 0x018 then s.posWord
  else if offset = 0x01C then s.outcnt
  else if offset = 0x020 then s.errinfo
  else 0

/-- The byte at an offset from 0x100 on: the STATE window in IDLE (R72, R78), the DATA buffer (R79), 0 elsewhere (R50). -/
def State.readByte (s : State) (offset : Nat) : Byte :=
  if 0x100 ≤ offset ∧ offset < 0x1C8 then (if s.phase = .idle then s.lanes.byte (offset - 0x100) else 0)
  else if 0x200 ≤ offset ∧ offset < 0x300 then s.dataRead (offset - 0x200)
  else 0

/-- R71: the byte at the lowest address is the least significant. -/
def littleEndian : List Byte → Nat
  | [] => 0
  | b :: bs => b.toNat + 2 ^ 8 * littleEndian bs

/-- MemRead (R71) of a legal access. -/
def State.busRead (s : State) (offset size : Nat) : Word :=
  if offset < 0x100 then s.readRegister offset
  else BitVec.ofNat 32 (littleEndian ((List.range size).map fun k => s.readByte (offset + k)))

/-- A write to a register (R40 to R50): only CTRL, STATUS and CMD take one. -/
def State.writeRegister (s : State) (offset : Nat) (v : Word) : State :=
  if offset = 0x008 then { s with ie := v.getLsbD 0 }
  else if offset = 0x00C then s.writeStatus v
  else if offset = 0x010 then s.accept v
  else s

/-- A byte written at an offset from 0x100 on: the STATE window in IDLE (R78), the DATA buffer (R79), nothing elsewhere (R50). -/
def State.writeByte (s : State) (offset : Nat) (b : Byte) : State :=
  if 0x100 ≤ offset ∧ offset < 0x1C8 then
    (if s.phase = .idle then { s with lanes := s.lanes.setByte (offset - 0x100) b } else s)
  else if 0x200 ≤ offset ∧ offset < 0x300 then { s with data := s.data.write (offset - 0x200) b }
  else s

/-- MemWrite (R71) from an offset above the registers: bits 7:0 of the value at the offset, the next byte at the next, `size` bytes. -/
def State.writeBytes (s : State) (offset : Nat) (v : Nat) : Nat → State
  | 0 => s
  | size + 1 => (s.writeByte offset (BitVec.ofNat 8 v)).writeBytes (offset + 1) (v / 2 ^ 8) size

/-- MemWrite (R71) of a legal access. -/
def State.busWrite (s : State) (offset size : Nat) (v : Word) : State :=
  if offset < 0x100 then s.writeRegister offset v else s.writeBytes offset v.toNat size

/-- The bus answers (log entry 3). -/
def State.respond (s : State) (a : Response) : State := { s with responses := s.responses ++ [a] }

/-- One access performed (R75, R77): a bus error has no effect and reads 0; a read changes nothing; a write is answered with 0
(log entry 13). -/
def State.perform (s : State) (r : Request) : State :=
  if r.legal then
    match r.op with
    | .read => s.respond ⟨r.agent, false, s.busRead r.offset.toNat r.size⟩
    | .write v => (s.busWrite r.offset.toNat r.size v).respond ⟨r.agent, false, 0⟩
  else s.respond ⟨r.agent, true, 0⟩

end Sys2Proof.Machine
end

