-- ==== Sys2Proof/Machine/Sponge.lean ====
section
/-! DEFINITION. The sponge controller and the hash family: INIT, ABSORB, FINAL, SQUEEZE and the reference sponge (41_sponge.md). -/

namespace Sys2Proof.Machine

/-- The pad byte PB(PAD) (R172). -/
def PadRule.byte : PadRule → Byte
  | .keccakOriginal => 0x01
  | .sha3Nist => 0x06
  | .shake => 0x1F

/-- The lanes and the byte position in the current block: what a sponge in progress is made of. -/
structure SpongePoint where
  lanes : Lanes
  pos   : BitVec 8
  deriving DecidableEq, Repr

/-- One message byte (R175, R183): XOR at POS, then a permutation at the moment POS reaches RATE (R176). -/
def absorbByte (rate : BitVec 8) (p : SpongePoint) (b : Byte) : SpongePoint :=
  if p.pos + 1 = rate then ⟨keccakF (p.lanes.xorByte p.pos.toNat b), 0⟩
  else ⟨p.lanes.xorByte p.pos.toNat b, p.pos + 1⟩

/-- The message bytes, first to last. -/
def absorbBytes (rate : BitVec 8) (p : SpongePoint) (bs : List Byte) : SpongePoint := bs.foldl (absorbByte rate) p

/-- The two XORs of the padding (R174, R186), before the permutation. -/
def padLanes (rate : BitVec 8) (pb : Byte) (p : SpongePoint) : Lanes :=
  (p.lanes.xorByte p.pos.toNat pb).xorByte (rate.toNat - 1) 0x80

/-- The padding of the final chunk and its permutation (R175, R186). -/
def padFinal (rate : BitVec 8) (pb : Byte) (p : SpongePoint) : SpongePoint := ⟨keccakF (padLanes rate pb p), 0⟩

/-- Before a byte is taken: a permutation only when the block's RATE bytes have all been extracted (R178, R190). -/
def freshBlock (rate : BitVec 8) (p : SpongePoint) : SpongePoint := if p.pos = rate then ⟨keccakF p.lanes, 0⟩ else p

/-- `n` output bytes and the point after them (R175, R190). -/
def squeezeBytes (rate : BitVec 8) : Nat → SpongePoint → List Byte × SpongePoint
  | 0, p => ([], p)
  | n + 1, p =>
    let q := freshBlock rate p
    let r := squeezeBytes rate n ⟨q.lanes, q.pos + 1⟩
    (q.lanes.byte q.pos.toNat :: r.1, r.2)

/-- The reference sponge Sponge(rate, p, M, L) (R175). -/
def sponge (rate : BitVec 8) (pb : Byte) (msg : List Byte) (len : Nat) : List Byte :=
  (squeezeBytes rate len (padFinal rate pb (absorbBytes rate ⟨Lanes.zero, 0⟩ msg))).1

/-- Keccak256(M) = Sponge(136, 0x01, M, 32) (R175). -/
def keccak256 (msg : List Byte) : List Byte := sponge 136 0x01 msg 32

/-- The lanes and POS of an engine as a sponge in progress. -/
def State.point (s : State) : SpongePoint := ⟨s.lanes, s.pos⟩

/-- The writes of INIT after its checks (R180). -/
def State.openSponge (s : State) (variant : Variant) (rate : BitVec 8) (pad : PadRule) (outlen : BitVec 8) : State :=
  { s with rate := rate, pad := pad, outlen := outlen, variant := variant,
           lanes := Lanes.zero, pos := 0, outcnt := 0, phase := .absorb }

/-- The padding rule a PAD code names; code 3 names none and is refused before this is used (R172, R181). -/
def padOfCode : Nat → PadRule
  | 0 => .keccakOriginal
  | 1 => .sha3Nist
  | _ => .shake

/-- R181: a custom INIT with RATE = 0, RATE >= 200 or PAD = 3 is a ConfigurationError. -/
def badConfiguration (rate pad : Nat) : Bool := decide (rate = 0) || decide (200 ≤ rate) || decide (3 ≤ pad)

/-- INIT, the custom form (R180, R181): in every phase. -/
def execInit (rate pad : Nat) (s : State) : Host.Outcome State Fault Refusal :=
  runCommand (.init rate pad) [(badConfiguration rate pad, .configurationError)]
    (fun s => s.openSponge .custom (BitVec.ofNat 8 rate) (padOfCode pad) 0) s

/-- INIT SHA3-224 (R180, row 1 of R171). -/
def execInitSha3_224 (s : State) : Host.Outcome State Fault Refusal :=
  runCommand .initSha3_224 [] (fun s => s.openSponge .sha3_224 144 .sha3Nist 28) s

/-- INIT SHA3-256 (R180, row 2 of R171). -/
def execInitSha3_256 (s : State) : Host.Outcome State Fault Refusal :=
  runCommand .initSha3_256 [] (fun s => s.openSponge .sha3_256 136 .sha3Nist 32) s

/-- INIT SHA3-384 (R180, row 3 of R171). -/
def execInitSha3_384 (s : State) : Host.Outcome State Fault Refusal :=
  runCommand .initSha3_384 [] (fun s => s.openSponge .sha3_384 104 .sha3Nist 48) s

/-- INIT SHA3-512 (R180, row 4 of R171). -/
def execInitSha3_512 (s : State) : Host.Outcome State Fault Refusal :=
  runCommand .initSha3_512 [] (fun s => s.openSponge .sha3_512 72 .sha3Nist 64) s

/-- INIT SHAKE128 (R180, row 5 of R171). -/
def execInitShake128 (s : State) : Host.Outcome State Fault Refusal :=
  runCommand .initShake128 [] (fun s => s.openSponge .shake128 168 .shake 0) s

/-- INIT SHAKE256 (R180, row 6 of R171). -/
def execInitShake256 (s : State) : Host.Outcome State Fault Refusal :=
  runCommand .initShake256 [] (fun s => s.openSponge .shake256 136 .shake 0) s

/-- INIT KECCAK256 (R180, row 7 of R171). -/
def execInitKeccak256 (s : State) : Host.Outcome State Fault Refusal :=
  runCommand .initKeccak256 [] (fun s => s.openSponge .keccak256 136 .keccakOriginal 32) s

/-- The pseudocode of ABSORB (R183); DATA does not change while it runs, so its bytes can be read first. -/
def absorbBody (off len : Nat) (s : State) : State :=
  let p := absorbBytes s.rate s.point (s.dataBytes off len)
  { s with lanes := p.lanes, pos := p.pos }

/-- ABSORB (R183): ABSORB phase only. -/
def execAbsorb (off len : Nat) (s : State) : Host.Outcome State Fault Refusal :=
  runCommand (.absorb off len) [(s.outside [.absorb], .sequenceError), (outOfRange off len, .bufferRange)] (absorbBody off len) s

/-- The pseudocode of FINAL (R186). -/
def finalBody (s : State) : State :=
  { s with lanes := (padFinal s.rate s.pad.byte s.point).lanes, pos := 0, outcnt := 0, phase := .squeeze }

/-- FINAL (R186): ABSORB phase only. -/
def execFinal (s : State) : Host.Outcome State Fault Refusal :=
  runCommand .final [(s.outside [.absorb], .sequenceError)] finalBody s

/-- The pseudocode of SQUEEZE (R190): LEN bytes to DATA in order, OUTCNT up by one a byte modulo 2^32 (R37). -/
def squeezeBody (off len : Nat) (s : State) : State :=
  let r := squeezeBytes s.rate len s.point
  { s with lanes := r.2.lanes, pos := r.2.pos, data := s.data.writeBytes off r.1, outcnt := s.outcnt + BitVec.ofNat 32 len }

/-- R192: a fixed-output variant asked for more than OUTLEN bytes in all; the sum does not wrap. -/
def State.pastOutlen (s : State) (len : Nat) : Bool :=
  decide (s.outlen ≠ 0) && decide (s.outlen.toNat < s.outcnt.toNat + len)

/-- SQUEEZE (R190): SQUEEZE phase only; the output-length check comes last (R246). -/
def execSqueeze (off len : Nat) (s : State) : Host.Outcome State Fault Refusal :=
  runCommand (.squeeze off len)
    [(s.outside [.squeeze], .sequenceError), (outOfRange off len, .bufferRange), (s.pastOutlen len, .outputLength)]
    (squeezeBody off len) s

end Sys2Proof.Machine
end

