-- ==== Sys2Proof/Machine/Eip55.lean ====
section
/-! DEFINITION. Hex text, the EIP-55 casing, the address derivation, and the commands ETHADDR and EIP55 (42_eip55.md). -/

namespace Sys2Proof.Machine

/-- The lowercase digit of a value 0 to 15 (R210, R211). -/
def hexDigit (d : Nat) : Byte := BitVec.ofNat 8 (if d < 10 then 0x30 + d else 0x61 + (d - 10))

/-- HexLower (R211): the digit of bits 7:4, then the digit of bits 3:0, of each byte. -/
def hexLower : List Byte → List Byte
  | [] => []
  | b :: bs => hexDigit (b.toNat / 16) :: hexDigit (b.toNat % 16) :: hexLower bs

/-- HexVal (R212): in either case; any other byte is no hex character. -/
def hexVal (c : Byte) : Option Nat :=
  if 0x30 ≤ c.toNat ∧ c.toNat ≤ 0x39 then some (c.toNat - 0x30)
  else if 0x61 ≤ c.toNat ∧ c.toNat ≤ 0x66 then some (c.toNat - 0x61 + 10)
  else if 0x41 ≤ c.toNat ∧ c.toNat ≤ 0x46 then some (c.toNat - 0x41 + 10)
  else none

/-- HexDecode (R213): defined only when every character is a hex character (and the length even). -/
def hexDecode : List Byte → Option (List Byte)
  | [] => some []
  | [_] => none
  | c :: d :: cs =>
    match hexVal c, hexVal d, hexDecode cs with
    | some h, some l, some bs => some (BitVec.ofNat 8 (h * 16 + l) :: bs)
    | _, _, _ => none

/-- Nibble i of a hash, reading bytes left to right: the high nibble if i is even, the low if odd (R216 step 6). -/
def nibble (h : List Byte) (i : Nat) : Nat :=
  if i % 2 = 0 then (h.getD (i / 2) 0).toNat / 16 else (h.getD (i / 2) 0).toNat % 16

/-- R216 step 6: a lowercase letter becomes uppercase where the nibble is 8 or more; digits are unaffected. -/
def caseChar (c : Byte) (nib : Nat) : Byte :=
  if 0x61 ≤ c.toNat ∧ c.toNat ≤ 0x66 ∧ 8 ≤ nib then c - 0x20 else c

/-- EIP55Text (R216): "0x" and the 40 cased characters. -/
def eip55Text (raw : List Byte) : List Byte :=
  let low := hexLower raw
  let h := keccak256 low
  0x30 :: 0x78 :: (List.range 40).map fun i => caseChar (low.getD i 0) (nibble h i)

/-- The raw address of a public key (R215): the last 20 bytes of its Keccak-256 digest. -/
def rawAddress (key : List Byte) : List Byte := (keccak256 key).drop 12

/-- The result-area writes (R222) and the end of both commands (R219, R225, R228). -/
def addressResult (raw : List Byte) (s : State) : State :=
  State.toIdle { s with data := (s.data.writeBytes 0xC0 raw).writeBytes 0xD4 (eip55Text raw) }

/-- ETHADDR (R225): IDLE only; length before range (R246). All input is read before any result is written (R83). -/
def execEthaddr (off len : Nat) (s : State) : Host.Outcome State Fault Refusal :=
  runCommand (.ethaddr off len)
    [(s.outside [.idle], .sequenceError), (decide (len ≠ 64), .invalidKeySize), (outOfRange off len, .bufferRange)]
    (fun s => addressResult (rawAddress (s.dataBytes off 64)) s) s

/-- R246 check 6: a non-hex character among the 40 input bytes (R212). -/
def State.notHex (s : State) (off : Nat) : Bool := (hexDecode (s.dataBytes off 40)).isNone

/-- EIP55 (R228): IDLE only; length, range, content in that order. -/
def execEip55 (off len : Nat) (s : State) : Host.Outcome State Fault Refusal :=
  runCommand (.eip55 off len)
    [(s.outside [.idle], .sequenceError), (decide (len ≠ 40), .invalidEncoding), (outOfRange off len, .bufferRange),
     (s.notHex off, .invalidEncoding)]
    (fun s => addressResult ((hexDecode (s.dataBytes off 40)).getD []) s) s

end Sys2Proof.Machine
end

