-- ==== Sys2Proof/Machine/LaneCommands.lean ====
section
/-! DEFINITION. NOP, CLEAR and PERMUTE (40_permutation.md section 2). -/

namespace Sys2Proof.Machine

/-- NOP (R150): the completion update only, in every phase. -/
def execNop (s : State) : Host.Outcome State Fault Refusal := runCommand .nop [] (fun s => s) s

/-- CLEAR (R151): in every phase. -/
def execClear (s : State) : Host.Outcome State Fault Refusal := runCommand .clear [] State.toIdle s

/-- PERMUTE (R152): IDLE only. -/
def execPermute (s : State) : Host.Outcome State Fault Refusal :=
  runCommand .permute [(s.outside [.idle], .sequenceError)] State.keccakF s

end Sys2Proof.Machine
end

