-- ==== Sys2Proof/Machine/Dispatch.lean ====
section
/-! DEFINITION. One arm per command. -/

namespace Sys2Proof.Machine

/-- What a command does. -/
def exec (i : Instr) (s : State) : Host.Outcome State Fault Refusal :=
  match i with
  | .nop => Sys2Proof.Machine.execNop s
  | .clear => Sys2Proof.Machine.execClear s
  | .init rate pad => Sys2Proof.Machine.execInit rate pad s
  | .initSha3_224 => Sys2Proof.Machine.execInitSha3_224 s
  | .initSha3_256 => Sys2Proof.Machine.execInitSha3_256 s
  | .initSha3_384 => Sys2Proof.Machine.execInitSha3_384 s
  | .initSha3_512 => Sys2Proof.Machine.execInitSha3_512 s
  | .initShake128 => Sys2Proof.Machine.execInitShake128 s
  | .initShake256 => Sys2Proof.Machine.execInitShake256 s
  | .initKeccak256 => Sys2Proof.Machine.execInitKeccak256 s
  | .absorb off len => Sys2Proof.Machine.execAbsorb off len s
  | .final => Sys2Proof.Machine.execFinal s
  | .squeeze off len => Sys2Proof.Machine.execSqueeze off len s
  | .permute => Sys2Proof.Machine.execPermute s
  | .ethaddr off len => Sys2Proof.Machine.execEthaddr off len s
  | .eip55 off len => Sys2Proof.Machine.execEip55 off len s

end Sys2Proof.Machine
end

