-- ==== Sys2Proof/Machine/Sequencer.lean ====
section
/-! DEFINITION. What happens next: the held command runs, or one input is performed (20_memory.md R84, R85; 70_reset_and_hazards.md). -/

namespace Sys2Proof.Machine

/-- The held word is decoded and executed as one atomic step (R42, R85, R106). -/
def State.runHeld (s : State) (w : Word) : Host.Outcome State Fault Refusal :=
  match decode w with
  | .ok i => exec i s
  | .error _ => .next (s.completeIllegal w)

/-- An input that has been chosen: what stood before it and is held back, the input, what stands after it. -/
structure Chosen where
  before : List Request
  chosen : Input
  after  : List Input
  deriving DecidableEq, Repr

/-- The oldest input that may be performed now (R84, R85): `rst` always; an access unless BUSY holds it, so that a STATUS access and a
bus error are performed "at once", whatever is held in front of them (log entry 4). -/
def chooseInput (busy : Bool) : List Input → Option Chosen
  | [] => none
  | .reset :: rest => some ⟨[], .reset, rest⟩
  | .access r :: rest =>
    if busy && r.held then
      match chooseInput busy rest with
      | some c => some ⟨r :: c.before, c.chosen, c.after⟩
      | none => none
    else some ⟨[], .access r, rest⟩

/-- U5: the held accesses that end as writes still to be performed on the reset state, in their order (log entry 6). `place` counts the
held accesses. -/
def keptAtReset (engine reset place : Nat) : List Request → List Request
  | [] => []
  | r :: rs =>
    match r.op with
    | .read => keptAtReset engine reset (place + 1) rs
    | .write _ =>
      if Config.heldWriteAtReset engine reset place then r :: keptAtReset engine reset (place + 1) rs
      else keptAtReset engine reset (place + 1) rs

/-- U5: what a held access that is not kept gets: any answer or none (log entry 6). -/
def answerAtReset (engine reset place : Nat) (r : Request) : Option (Bool × Word) :=
  match r.op with
  | .read => Config.heldReadAtReset engine reset place
  | .write _ => if Config.heldWriteAtReset engine reset place then none else Config.lostWriteAnswer engine reset place

/-- The answers of the held accesses that are not kept, in their order (log entry 6). -/
def answersAtReset (engine reset place : Nat) : List Request → List Response
  | [] => []
  | r :: rs =>
    match answerAtReset engine reset place r with
    | some (error, value) => ⟨r.agent, error, value⟩ :: answersAtReset engine reset (place + 1) rs
    | none => answersAtReset engine reset (place + 1) rs

/-- `rst` (R280, R281): every piece of the spec's state as after reset, whatever the engine was doing; the held command is abandoned.
What the outside holds (inputs still to come, answers given, durations to come) stays; held accesses end as U5 lets them. -/
def State.applyReset (s : State) (heldBack : List Request) (rest : List Input) : State :=
  { State.reset with
    pace := s.pace
    inputs := (keptAtReset s.engine s.resets 0 heldBack).map .access ++ rest
    responses := s.responses ++ answersAtReset s.engine s.resets 0 heldBack
    resets := s.resets + 1
    engine := s.engine }

/-- One input performed, if one may be. -/
def State.serve (s : State) : State :=
  match chooseInput s.busy s.inputs with
  | none => s
  | some c =>
    match c.chosen with
    | .reset => s.applyReset c.before c.after
    | .access r => State.perform { s with inputs := c.before.map .access ++ c.after } r

/-- The held word, when its turn has come: BUSY has lasted its time and no `rst` is asserted, which would take effect "whatever the
engine is doing" and discard the command and its completion (R247, R281). -/
def State.readyWord (s : State) : Option Word :=
  match s.held with
  | some w => if s.busyLeft = 0 ∧ Input.reset ∉ s.inputs then some w else none
  | none => none

/-- A step that runs no command: while a word is held BUSY has one step less to go, and one input is performed if R84 lets one. -/
def State.waitStep (s : State) : State :=
  State.serve { s with busyLeft := if s.busy then s.busyLeft - 1 else s.busyLeft }

end Sys2Proof.Machine
end

