-- ==== Sys2Proof/Machine/Step.lean ====
section
/-! DEFINITION. One step of an engine: when its turn has come the held command runs to its end (R85); otherwise one input is performed,
or nothing happens (R282: the block executes nothing by itself). -/

namespace Sys2Proof.Machine

/-- One step. -/
def step (s : State) : Host.Outcome State Fault Refusal :=
  match s.readyWord with
  | some w => s.runHeld w
  | none => .next s.waitStep

/-- The command word stored where the next step takes it: accepted as by a CMD write (R42), its turn come, and no `rst` asserted that
would discard it (R281). Log entry 3. -/
def State.withFetchWord (s : State) (nbits w : Nat) : State :=
  { s with
    held := some (wordOfTable nbits w)
    done := false
    busyLeft := 0
    inputs := s.inputs.filter fun x => decide (x ≠ .reset) }

end Sys2Proof.Machine
end

