-- ==== Sys2Proof/Machine/Platform.lean ====
section
/-! DEFINITION. Several engines on one host bus (60_exceptions.md R262; BASE and N_ENGINES of 00_scope.md R10 are this file's data). -/

namespace Sys2Proof.Machine

/-- One placed engine: the bus address of byte offset 0 of its register block, and its own state (R262). -/
structure Engine where
  base  : Nat
  state : State
  deriving DecidableEq, Repr

/-- The engines of a platform; N_ENGINES is their number. -/
structure Platform where
  engines : List Engine
  deriving DecidableEq, Repr

/-- N_ENGINES >= 1, every BASE 1024-byte aligned and used once (R10, R70, R262), and no two engines with one number, so that they share no
free value (log entry 19). -/
def Platform.wf (p : Platform) : Bool :=
  !p.engines.isEmpty && p.engines.all (fun e => decide (e.base % 1024 = 0)) && decide ((p.engines.map Engine.base).Nodup) &&
    decide ((p.engines.map fun e => e.state.engine).Nodup)

/-- The bus addresses BASE + 0x000 to BASE + 0x3FF are the block's (R70). -/
def Engine.owns (e : Engine) (address : Nat) : Bool := decide (e.base ≤ address) && decide (address < e.base + 1024)

/-- An input reaches the engine: last in the order received (R85). -/
def Engine.enqueue (e : Engine) (x : Input) : Engine := { e with state := { e.state with inputs := e.state.inputs ++ [x] } }

/-- The offset of a bus address in the engine's block (R70). -/
def Engine.offsetOf (e : Engine) (address : Nat) : BitVec 10 := BitVec.ofNat 10 (address - e.base)

/-- A host access by bus address goes to the engine that owns the address; where none does it is no access to a block (log entry 14). -/
def Platform.deliver (p : Platform) (agent address size : Nat) (op : BusOp) : Platform :=
  { engines := p.engines.map fun e =>
      if e.owns address then e.enqueue (.access ⟨agent, e.offsetOf address, size, op⟩) else e }

/-- `rst` of the whole platform: the engines "start together at reset" (R262). -/
def Platform.assertReset (p : Platform) : Platform := { engines := p.engines.map fun e => e.enqueue .reset }

/-- Engine `k` makes a step; the others stay as they are (R262). -/
def Platform.stepAt (p : Platform) (k : Nat) : Host.Outcome Platform Fault Refusal :=
  match p.engines[k]? with
  | none => .next p
  | some e =>
    match step e.state with
    | .next t => .next { engines := p.engines.set k { e with state := t } }
    | .fault f => .fault f
    | .refused r => .refused r

/-- The interrupt outputs, one per engine (R255, R262). -/
def Platform.irqs (p : Platform) : List Bool := p.engines.map fun e => e.state.irq

end Sys2Proof.Machine
end

