-- ==== Sys2Proof/Safety.lean ====
section
/-! DEFINITION. The words claims are made in: what a safe run is, the invariant of 10_state.md R55 (with what R38, R40, R79 add), the
tables of R171 and R244 as data, and a sponge session. -/

namespace Sys2Proof.Machine

/-- The turn of the held word `w` has come: BUSY has lasted its time and no `rst` is asserted. Both the count and the place of `rst` among
the inputs are the model's (log entries 2, 3 and 5); the spec says that a command completes after finitely many steps (R290) unless `rst`
discards it (R247, R281). -/
def State.Ready (s : State) (w : Word) : Prop := s.held = some w ∧ s.busyLeft = 0 ∧ Input.reset ∉ s.inputs

/-- A run is safe when no step of it stops (R240: the block never traps, halts or hangs). -/
def SafeFrom (s : State) : Prop := ∀ n, ∃ t, Host.Core.run Sys2Proof.core n s = .next t

/-- The preset rows of R171: RATE, PAD and OUTLEN. -/
def Variant.row : Variant → Option (Nat × PadRule × Nat)
  | .custom => none
  | .sha3_224 => some (144, .sha3Nist, 28)
  | .sha3_256 => some (136, .sha3Nist, 32)
  | .sha3_384 => some (104, .sha3Nist, 48)
  | .sha3_512 => some (72, .sha3Nist, 64)
  | .shake128 => some (168, .shake, 0)
  | .shake256 => some (136, .shake, 0)
  | .keccak256 => some (136, .keccakOriginal, 32)

/-- The preset an INIT command names, if it is one of the seven (R104). -/
def Instr.preset : Instr → Option Variant
  | .initSha3_224 => some .sha3_224
  | .initSha3_256 => some .sha3_256
  | .initSha3_384 => some .sha3_384
  | .initSha3_512 => some .sha3_512
  | .initShake128 => some .shake128
  | .initShake256 => some .shake256
  | .initKeccak256 => some .keccak256
  | _ => none

/-- The admission table of R244. -/
def admitted : Instr → Phase → Bool
  | .absorb _ _, p => p = .absorb
  | .final, p => p = .absorb
  | .squeeze _ _, p => p = .squeeze
  | .permute, p => p = .idle
  | .ethaddr _ _, p => p = .idle
  | .eip55 _ _, p => p = .idle
  | _, _ => true

/-- CFG holds a row of R171, or a custom configuration (R38, R180), or nothing yet (RATE 0, R48). -/
def State.cfgOk (s : State) : Prop :=
  match s.variant.row with
  | some (rate, pad, outlen) => s.rate.toNat = rate ∧ s.pad = pad ∧ s.outlen.toNat = outlen
  | none => s.rate.toNat ≤ 199 ∧ s.outlen = 0

/-- R55 between commands, and: a fixed-output digest comes from one block (R193: POS counts with OUTCNT), CFG is one the block can have
(R38), DONE is 0 while BUSY is 1 (R40, R42), DATA is in canonical form. -/
structure State.Inv (s : State) : Prop where
  idle : s.phase = .idle → s.pos = 0 ∧ s.outcnt = 0
  absorbing : s.phase = .absorb → 1 ≤ s.rate.toNat ∧ s.rate.toNat ≤ 199 ∧ s.pos.toNat ≤ s.rate.toNat - 1
  squeezing : s.phase = .squeeze → 1 ≤ s.rate.toNat ∧ s.rate.toNat ≤ 199 ∧ s.pos.toNat ≤ s.rate.toNat
  counted : s.outlen ≠ 0 → s.outcnt.toNat ≤ s.outlen.toNat
  oneBlock : s.phase = .squeeze → s.outlen ≠ 0 → s.pos.toNat = s.outcnt.toNat
  config : s.cfgOk
  notDone : s.held.isSome → s.done = false
  canonical : s.data.wf = true

/-- The eight INIT commands (R104). -/
def Instr.isInit : Instr → Bool
  | .init _ _ => true
  | i => (Instr.preset i).isSome

/-- R246, the order of the checks after decode, as one table: the code a command completes with. -/
def expectedError (i : Instr) (s : State) : ErrorCode :=
  if admitted i s.phase = false then .sequenceError
  else match i with
    | .init rate pad => if 1 ≤ rate ∧ rate ≤ 199 ∧ pad ≠ 3 ∧ pad < 4 then .ok else .configurationError
    | .absorb off len => if off + len ≤ 256 then .ok else .bufferRange
    | .squeeze off len =>
      if 256 < off + len then .bufferRange
      else if s.outlen.toNat ≠ 0 ∧ s.outlen.toNat < s.outcnt.toNat + len then .outputLength
      else .ok
    | .ethaddr off len => if len ≠ 64 then .invalidKeySize else if 256 < off + len then .bufferRange else .ok
    | .eip55 off len =>
      if len ≠ 40 then .invalidEncoding
      else if 256 < off + len then .bufferRange
      else if (List.range 40).any fun k => (hexVal (s.dataRead (off + k))).isNone then .invalidEncoding
      else .ok
    | _ => .ok

/-- The state after the completion update with code OK (R249). -/
def State.succeeded (s : State) : State := { s with errcode := .ok, held := none, done := true }

/-- The state after the completion update with an error (R249, R250). -/
def State.failed (s : State) (w : Word) (code : ErrorCode) : State :=
  { s with errcode := code, err := true, errinfo := w, held := none, done := true }

/-- One round of the loop of R183, on the state, as it is written there. -/
def absorbRound (off k : Nat) (s : State) : State :=
  let t := { s with lanes := s.lanes.xorByte s.pos.toNat (s.dataRead (off + k)), pos := s.pos + 1 }
  if t.pos = t.rate then { t with lanes := keccakF t.lanes, pos := 0 } else t

/-- The loop of R183 up to, but without, round `n`. -/
def absorbLoop (off : Nat) : Nat → State → State
  | 0, s => s
  | n + 1, s => absorbRound off n (absorbLoop off n s)

/-- One round of the loop of R190, on the state, as it is written there. -/
def squeezeRound (off k : Nat) (s : State) : State :=
  let t := if s.pos = s.rate then { s with lanes := keccakF s.lanes, pos := 0 } else s
  { t with data := t.data.write (off + k) (t.lanes.byte t.pos.toNat), pos := t.pos + 1, outcnt := t.outcnt + 1 }

/-- The loop of R190 up to, but without, round `n`. -/
def squeezeLoop (off : Nat) : Nat → State → State
  | 0, s => s
  | n + 1, s => squeezeRound off n (squeezeLoop off n s)

/-- Where the walk of R134 stands at step t: from (1, 0), by (x, y) <- (y, 2x + 3y mod 5). -/
def rhoWalk : Nat → Nat × Nat
  | 0 => (1, 0)
  | t + 1 => ((rhoWalk t).2, (2 * (rhoWalk t).1 + 3 * (rhoWalk t).2) % 5)

/-- One step of the LFSR of R139 on the bits R[0..7]. -/
def lfsrStep : List Bool → List Bool
  | [r0, r1, r2, r3, r4, r5, r6, r7] => [r7, r0, r1, r2, r3 ^^ r7, r4 ^^ r7, r5 ^^ r7, r6]
  | r => r

/-- `n` steps of the LFSR of R139 from R = 10000000. -/
def lfsr : Nat → List Bool
  | 0 => [true, false, false, false, false, false, false, false]
  | n + 1 => lfsrStep (lfsr n)

/-- rc(t) of R139. -/
def lfsrBit (t : Nat) : Bool := (lfsr (t % 255)).getD 0 false

/-- Two states agree on everything a command reads or writes but DONE and ERR, which a host may clear while BUSY lasts (R84, R40). -/
def SameEngine (s t : State) : Prop :=
  t.lanes = s.lanes ∧ t.phase = s.phase ∧ t.pos = s.pos ∧ t.outcnt = s.outcnt ∧ t.rate = s.rate ∧ t.pad = s.pad ∧
  t.variant = s.variant ∧ t.outlen = s.outlen ∧ t.errcode = s.errcode ∧ t.errinfo = s.errinfo ∧ t.ie = s.ie ∧ t.data = s.data ∧
  t.resets = s.resets ∧ t.engine = s.engine

/-- One ABSORB or SQUEEZE of a session: what the host has made of DATA before it, and its operands. -/
structure Chunk where
  data : Memory
  off  : Nat
  len  : Nat
  deriving DecidableEq, Repr

/-- The state a chunk's command starts from: the host may have written DATA in any way. -/
def Chunk.start (c : Chunk) (s : State) : State := { s with data := c.data }

/-- ABSORB commands one after the other, all of them to succeed: the state after them. -/
def absorbSession : List Chunk → State → Option State
  | [], s => some s
  | c :: cs, s =>
    match exec (.absorb c.off c.len) (c.start s) with
    | .next t => if t.errcode = .ok then absorbSession cs t else none
    | _ => none

/-- SQUEEZE commands one after the other, all of them to succeed: the bytes each left at its place in DATA, in order, and the state after. -/
def squeezeSession : List Chunk → State → Option (List Byte × State)
  | [], s => some ([], s)
  | c :: cs, s =>
    match exec (.squeeze c.off c.len) (c.start s) with
    | .next t =>
      if t.errcode = .ok then
        match squeezeSession cs t with
        | some (bs, u) => some (t.dataBytes c.off c.len ++ bs, u)
        | none => none
      else none
    | _ => none

end Sys2Proof.Machine
end

