-- ==== Sys2Proof/Certificates/Slice0/Obligations.lean ====
section
/-! DEFINITION. The statements of this row, each from numbered rules of spec/. -/

open Sys2Proof Sys2Proof.Machine

/-! ### Encoding -/

/-- Decoding the word of a well-formed command gives it back, for every operand its fields admit (R102 to R106). -/
def Obligations.DecodeOfEncode : Prop :=
  ∀ i : Instr, i.wellFormed = true → decode (encode i) = .ok i

/-- A word that decodes is the word of the command it decodes to, which is well-formed: no two words are one command (R102 to R106). -/
def Obligations.EncodeOfDecode : Prop :=
  ∀ (w : Word) (i : Instr), decode w = .ok i → i.wellFormed = true ∧ encode i = w

/-- The words R104 and R107 write out for the commands, the seven preset words of R104 among them. -/
def Obligations.SpecWordsDecode : Prop :=
  decode 0x00000000 = .ok .nop ∧ decode 0x00000001 = .ok .clear ∧ decode 0x00881002 = .ok (.init 136 1) ∧
  decode 0x00000102 = .ok .initSha3_224 ∧ decode 0x00000202 = .ok .initSha3_256 ∧ decode 0x00000302 = .ok .initSha3_384 ∧
  decode 0x00000402 = .ok .initSha3_512 ∧ decode 0x00000502 = .ok .initShake128 ∧ decode 0x00000602 = .ok .initShake256 ∧
  decode 0x00000702 = .ok .initKeccak256 ∧ decode 0x0007FA03 = .ok (.absorb 250 7) ∧ decode 0x00000004 = .ok .final ∧
  decode 0x00646405 = .ok (.squeeze 100 100) ∧ decode 0x00000006 = .ok .permute ∧ decode 0x00400007 = .ok (.ethaddr 0 64) ∧
  decode 0x00284008 = .ok (.eip55 64 40)

/-- R105: the illegal words are exactly those it lists, and each completes with IllegalCommand and changes nothing else. -/
def Obligations.IllegalWordsExactly : Prop :=
  (∀ w : Word, (∃ e, decode w = .error e) ↔
    (9 ≤ (w.extractLsb' 0 8).toNat ∨
     ((w.extractLsb' 0 8 = 0 ∨ w.extractLsb' 0 8 = 1 ∨ w.extractLsb' 0 8 = 4 ∨ w.extractLsb' 0 8 = 6) ∧ w.extractLsb' 8 24 ≠ 0) ∨
     (w.extractLsb' 0 8 = 2 ∧ (w.extractLsb' 11 1 ≠ 0 ∨ w.extractLsb' 14 2 ≠ 0 ∨ w.extractLsb' 24 8 ≠ 0)) ∨
     (w.extractLsb' 0 8 = 2 ∧ w.extractLsb' 8 3 ≠ 0 ∧ (w.extractLsb' 12 2 ≠ 0 ∨ w.extractLsb' 16 8 ≠ 0)) ∨
     ((w.extractLsb' 0 8 = 3 ∨ w.extractLsb' 0 8 = 5 ∨ w.extractLsb' 0 8 = 7 ∨ w.extractLsb' 0 8 = 8) ∧ w.extractLsb' 25 7 ≠ 0))) ∧
  (∀ (s : State) (w : Word) (e : Illegal), s.Ready w → decode w = .error e →
    step s = .next (s.failed w .illegalCommand))

/-! ### The step -/

/-- R42, R85, R106: when its turn has come (`State.Ready`: the BUSY count and the place of `rst` are the model's, log entries 2, 3, 5) the
held word is decoded and the step is the command's meaning at that state. That the very next step after `withFetchWord` runs the command
of its word is the model's choice (log entries 2 and 3): it stands for an accepted CMD write whose BUSY time is over. -/
def Obligations.StepRunsHeldCommand : Prop :=
  (∀ (s : State) (w : Word) (i : Instr), s.Ready w → decode w = .ok i → step s = exec i s) ∧
  (∀ (s : State) (nbits w : Nat) (i : Instr), decodeTableWord nbits w = some i →
    step (s.withFetchWord nbits w) = exec i (s.withFetchWord nbits w))

/-- R85, R282, in the model's queue of inputs (log entry 3): with no command held, the oldest input is performed, and with no input
nothing happens. -/
def Obligations.InputsInOrder : Prop :=
  ∀ s : State, s.held = none →
    (s.inputs = [] → step s = .next s) ∧
    (∀ r xs, s.inputs = .access r :: xs → step s = .next (State.perform { s with inputs := xs } r))

/-- R84, in the model's queue of inputs (log entries 2, 3): while BUSY lasts, held accesses get no answer and have no effect; a bus error,
and a STATUS access, is performed at once, whatever is held in front of it (log entry 4). -/
def Obligations.BusyHoldsAccesses : Prop :=
  ∀ (s : State) (w : Word) (n : Nat) (bs : List Request), s.held = some w → s.busyLeft = n + 1 →
    (∀ b ∈ bs, b.legal = true ∧ ¬(b.offset = 0x00C ∧ b.size = 4)) →
    (s.inputs = bs.map .access → step s = .next { s with busyLeft := n }) ∧
    ∀ r xs, s.inputs = bs.map .access ++ .access r :: xs → r.legal = false ∨ (r.offset = 0x00C ∧ r.size = 4) →
      step s = .next (State.perform { s with busyLeft := n, inputs := bs.map .access ++ xs } r)

/-- R84, R290: an accepted command runs after the steps its BUSY lasts, on the engine state it was accepted in, unless `rst` comes.
Which number of steps that is, is the model's data (log entry 2); the statement holds for every number. -/
def Obligations.AcceptedCommandCompletes : Prop :=
  ∀ (s : State) (w : Word), s.held = some w → Input.reset ∉ s.inputs →
    ∃ u, Host.Core.run Sys2Proof.core s.busyLeft s = .next u ∧ SameEngine s u ∧ u.held = some w ∧ u.busyLeft = 0 ∧
      step u = u.runHeld w

/-- R240: no step ever stops, so no run does. -/
def Obligations.EveryRunIsSafe : Prop :=
  ∀ s : State, SafeFrom s

/-! ### What the commands do -/

/-- R150, R151, R152: NOP and CLEAR in every phase, PERMUTE in IDLE. -/
def Obligations.LaneCommandResults : Prop :=
  ∀ s : State,
    exec .nop s = .next s.succeeded ∧
    exec .clear s = .next (State.succeeded { s with lanes := Vector.replicate 25 0, pos := 0, outcnt := 0, phase := .idle }) ∧
    (s.phase = .idle → exec .permute s = .next (State.succeeded { s with lanes := keccakF s.lanes }))

/-- R180, R181: INIT with RATE in [1, 199] and PAD not 3 opens a custom sponge in every phase. -/
def Obligations.CustomInitResult : Prop :=
  ∀ (s : State) (rate pad : Nat), 1 ≤ rate → rate ≤ 199 → pad < 3 → ∃ p : PadRule, p.code = pad ∧
    exec (.init rate pad) s = .next (State.succeeded { s with
      rate := BitVec.ofNat 8 rate, pad := p, outlen := 0, variant := .custom,
      lanes := Vector.replicate 25 0, pos := 0, outcnt := 0, phase := .absorb })

/-- R180 with the rows of R171: each preset INIT opens its sponge in every phase and always succeeds. -/
def Obligations.PresetInitResults : Prop :=
  ∀ (s : State) (i : Instr) (v : Variant) (rate : Nat) (pad : PadRule) (outlen : Nat),
    Instr.preset i = some v → v.row = some (rate, pad, outlen) →
    exec i s = .next (State.succeeded { s with
      rate := BitVec.ofNat 8 rate, pad := pad, outlen := BitVec.ofNat 8 outlen, variant := v,
      lanes := Vector.replicate 25 0, pos := 0, outcnt := 0, phase := .absorb })

/-- R183: ABSORB with its range inside DATA runs the loop of its pseudocode and completes. -/
def Obligations.AbsorbRunsItsLoop : Prop :=
  ∀ (s : State) (off len : Nat), s.phase = .absorb → off + len ≤ 256 →
    exec (.absorb off len) s = .next (absorbLoop off len s).succeeded

/-- R183, R32: bytes absorbed inside one block are XORed into the state bytes from POS on, and no other byte changes. -/
def Obligations.AbsorbInsideBlock : Prop :=
  ∀ (s : State) (off len : Nat), s.phase = .absorb → off + len ≤ 256 → s.pos.toNat + len < s.rate.toNat → s.rate.toNat ≤ 199 →
    ∃ t, exec (.absorb off len) s = .next t ∧ t.pos.toNat = s.pos.toNat + len ∧
      ∀ j < 200, t.lanes.byte j =
        if s.pos.toNat ≤ j ∧ j < s.pos.toNat + len then s.lanes.byte j ^^^ s.dataRead (off + (j - s.pos.toNat)) else s.lanes.byte j

/-- R186, R174: FINAL permutes the lanes with the pad byte XORed at POS and 0x80 at RATE - 1, and opens the output. -/
def Obligations.FinalPadsAndPermutes : Prop :=
  ∀ s : State, s.phase = .absorb → 1 ≤ s.rate.toNat → s.rate.toNat ≤ 199 → s.pos.toNat < s.rate.toNat →
    ∃ B : Lanes,
      (∀ j < 200, B.byte j = s.lanes.byte j ^^^ (if j = s.pos.toNat then s.pad.byte else 0) ^^^ (if j = s.rate.toNat - 1 then 0x80 else 0)) ∧
      exec .final s = .next (State.succeeded { s with lanes := keccakF B, pos := 0, outcnt := 0, phase := .squeeze })

/-- R187 (derived there from R186 and R172): with POS = RATE - 1 both XORs hit byte RATE - 1, which receives 0x81, 0x86 or 0x9F in
total. -/
def Obligations.FinalOneByteLeft : Prop :=
  ∀ s : State, s.phase = .absorb → 1 ≤ s.rate.toNat → s.rate.toNat ≤ 199 → s.pos.toNat = s.rate.toNat - 1 →
    ∃ B : Lanes,
      (∀ j < 200, B.byte j =
        if j = s.rate.toNat - 1 then
          s.lanes.byte j ^^^ (match s.pad with | .keccakOriginal => 0x81 | .sha3Nist => 0x86 | .shake => 0x9F)
        else s.lanes.byte j) ∧
      exec .final s = .next (State.succeeded { s with lanes := keccakF B, pos := 0, outcnt := 0, phase := .squeeze })

/-- R190: SQUEEZE inside its range and output length runs the loop of its pseudocode and completes. -/
def Obligations.SqueezeRunsItsLoop : Prop :=
  ∀ (s : State) (off len : Nat), s.phase = .squeeze → off + len ≤ 256 →
    (s.outlen ≠ 0 → s.outcnt.toNat + len ≤ s.outlen.toNat) →
    exec (.squeeze off len) s = .next (squeezeLoop off len s).succeeded

/-- R192: a fixed-output variant asked for more than OUTLEN bytes fails with OutputLength and extracts nothing; otherwise no limit
applies and SQUEEZE succeeds. In states the block can be in, OUTLEN is 0 exactly for SHAKE128, SHAKE256 and custom. -/
def Obligations.OutputLengthCheck : Prop :=
  (∀ (s : State) (off len : Nat), s.phase = .squeeze → off + len ≤ 256 →
    (s.outlen ≠ 0 ∧ s.outlen.toNat < s.outcnt.toNat + len →
      exec (.squeeze off len) s = .next (s.failed (encode (.squeeze off len)) .outputLength)) ∧
    (¬(s.outlen ≠ 0 ∧ s.outlen.toNat < s.outcnt.toNat + len) → ∃ t, exec (.squeeze off len) s = .next t ∧ t.errcode = .ok)) ∧
  ∀ s : State, s.Inv → (s.outlen = 0 ↔ s.variant = .shake128 ∨ s.variant = .shake256 ∨ s.variant = .custom)

/-- R193 (derived there from R171, R178 and R192): a fixed-output digest is taken from one block without a permutation, byte by byte of
the state. -/
def Obligations.DigestIsOneBlock : Prop :=
  ∀ (s : State) (off len : Nat), s.Inv → s.phase = .squeeze → s.outlen ≠ 0 → off + len ≤ 256 → s.outcnt.toNat + len ≤ s.outlen.toNat →
    ∃ t, exec (.squeeze off len) s = .next t ∧ t.errcode = .ok ∧ t.lanes = s.lanes ∧ t.outcnt.toNat = s.outcnt.toNat + len ∧
      ∀ k < len, t.dataRead (off + k) = s.lanes.byte (s.outcnt.toNat + k)

/-- R225, R222, R219: ETHADDR in IDLE on a 64-byte range writes the address and its text to the result area, and leaves the lanes zero.
-/
def Obligations.EthaddrResult : Prop :=
  ∀ (s : State) (off : Nat), s.phase = .idle → off + 64 ≤ 256 →
    ∃ t, exec (.ethaddr off 64) s = .next t ∧ t.errcode = .ok ∧
      t.lanes = Vector.replicate 25 0 ∧ t.phase = .idle ∧ t.pos = 0 ∧ t.outcnt = 0 ∧
      (∀ k < 20, t.dataRead (0xC0 + k) = (sponge 136 0x01 (s.dataBytes off 64) 32).getD (12 + k) 0) ∧
      (∀ k < 42, t.dataRead (0xD4 + k) = (eip55Text ((sponge 136 0x01 (s.dataBytes off 64) 32).drop 12)).getD k 0)

/-- R228, R222: EIP55 in IDLE on 40 hex characters writes the bytes they spell and their text to the result area. R216: what the text of
20 bytes is: "0x", and each character of their lower-case hex text, in upper case where it is a letter and its nibble of the Keccak-256
of that text, high nibble first, is 8 or more (ASCII codes: G6, log entry 11). -/
def Obligations.EipFiftyFiveResult : Prop :=
  (∀ (s : State) (off : Nat), s.phase = .idle → off + 40 ≤ 256 → (∀ k < 40, hexVal (s.dataRead (off + k)) ≠ none) →
    ∃ t raw, exec (.eip55 off 40) s = .next t ∧ t.errcode = .ok ∧ hexDecode (s.dataBytes off 40) = some raw ∧
      t.lanes = Vector.replicate 25 0 ∧ t.phase = .idle ∧ t.pos = 0 ∧ t.outcnt = 0 ∧
      (∀ k < 20, t.dataRead (0xC0 + k) = raw.getD k 0) ∧ (∀ k < 42, t.dataRead (0xD4 + k) = (eip55Text raw).getD k 0)) ∧
  ∀ raw : List Byte, raw.length = 20 →
    (eip55Text raw).length = 42 ∧ (eip55Text raw).getD 0 0 = 0x30 ∧ (eip55Text raw).getD 1 0 = 0x78 ∧
    ∀ i < 40, ∃ c b, (hexLower raw)[i]? = some c ∧ (sponge 136 0x01 (hexLower raw) 32)[i / 2]? = some b ∧
      (eip55Text raw).getD (i + 2) 0 =
        if (0x61 ≤ c.toNat ∧ c.toNat ≤ 0x66) ∧ 8 ≤ (if i % 2 = 0 then b.extractLsb' 4 4 else b.extractLsb' 0 4).toNat
        then c - 0x20 else c

/-! ### Errors and completion -/

/-- R246: the first check that fails gives the code of the held command, decode first. -/
def Obligations.CheckOrder : Prop :=
  ∀ (s : State) (w : Word), s.Ready w →
    ∃ t, step s = .next t ∧
      t.errcode = (match decode w with | .error _ => .illegalCommand | .ok i => expectedError i s)

/-- R244: a command fails with SequenceError exactly in the phases that do not admit it. -/
def Obligations.PhaseAdmission : Prop :=
  ∀ (i : Instr) (s : State), ∃ t, exec i s = .next t ∧ (t.errcode = .sequenceError ↔ admitted i s.phase = false)

/-- R249: the completion update of every command word, legal or not: the code of its checks in ERRCODE, on an error ERR 1 and the word
in ERRINFO, BUSY 0, DONE 1. -/
def Obligations.CompletionUpdate : Prop :=
  ∀ (s t : State) (w : Word), s.Ready w → step s = .next t →
    t.errcode = (match decode w with | .error _ => .illegalCommand | .ok i => expectedError i s) ∧ t.held = none ∧ t.done = true ∧
    (t.errcode ≠ .ok → t.err = true ∧ t.errinfo = w) ∧ (t.errcode = .ok → t.err = s.err ∧ t.errinfo = s.errinfo)

/-- R250: a command word that fails changes nothing except ERRCODE, ERR, ERRINFO, BUSY and DONE. -/
def Obligations.ErrorsArePrecise : Prop :=
  ∀ (s t : State) (w : Word), s.Ready w → step s = .next t → t.errcode ≠ .ok →
    t = { s with errcode := t.errcode, err := true, errinfo := w, held := none, done := true }

/-! ### Frames -/

/-- No command touches CTRL, the inputs, the bus answers or the model's clock fields (R41, R77, R251). -/
def Obligations.CommandFrame : Prop :=
  ∀ (i : Instr) (s t : State), exec i s = .next t →
    t.ie = s.ie ∧ t.inputs = s.inputs ∧ t.responses = s.responses ∧ t.busyLeft = s.busyLeft ∧ t.pace = s.pace ∧ t.resets = s.resets ∧
    t.engine = s.engine

/-- Frame of NOP, CLEAR and PERMUTE (R150, R151, R152): CFG and every DATA byte; NOP and PERMUTE also PHASE, POS and OUTCNT, NOP the
lanes. -/
def Obligations.LaneCommandFrame : Prop :=
  ∀ (i : Instr) (s t : State), i = .nop ∨ i = .clear ∨ i = .permute → exec i s = .next t →
    t.rate = s.rate ∧ t.pad = s.pad ∧ t.variant = s.variant ∧ t.outlen = s.outlen ∧ (∀ a, t.dataRead a = s.dataRead a) ∧
    (i = .nop → t.lanes = s.lanes) ∧ (i ≠ .clear → t.phase = s.phase ∧ t.pos = s.pos ∧ t.outcnt = s.outcnt)

/-- Frame of the INIT commands (R180): every DATA byte. -/
def Obligations.InitFrame : Prop :=
  ∀ (i : Instr) (s t : State), Instr.isInit i = true → exec i s = .next t → ∀ a, t.dataRead a = s.dataRead a

/-- Frame of ABSORB and FINAL (R183, R186): CFG and every DATA byte; ABSORB also PHASE and OUTCNT. -/
def Obligations.AbsorbFinalFrame : Prop :=
  ∀ (i : Instr) (s t : State), (∃ off len, i = .absorb off len) ∨ i = .final → exec i s = .next t →
    t.rate = s.rate ∧ t.pad = s.pad ∧ t.variant = s.variant ∧ t.outlen = s.outlen ∧ (∀ a, t.dataRead a = s.dataRead a) ∧
    (i ≠ .final → t.phase = s.phase ∧ t.outcnt = s.outcnt)

/-- Frame of SQUEEZE (R190): CFG, PHASE and every DATA byte outside DATA[OFF .. OFF+LEN-1]. -/
def Obligations.SqueezeFrame : Prop :=
  ∀ (off len : Nat) (s t : State), exec (.squeeze off len) s = .next t →
    t.rate = s.rate ∧ t.pad = s.pad ∧ t.variant = s.variant ∧ t.outlen = s.outlen ∧ t.phase = s.phase ∧
    ∀ a, ¬(off ≤ a ∧ a < off + len) → t.dataRead a = s.dataRead a

/-- Frame of ETHADDR and EIP55 (R222, R225, R228): CFG and every DATA byte outside the result area DATA[0xC0 .. 0xFD]. -/
def Obligations.AddressFrame : Prop :=
  ∀ (i : Instr) (s t : State), (∃ off len, i = .ethaddr off len) ∨ (∃ off len, i = .eip55 off len) → exec i s = .next t →
    t.rate = s.rate ∧ t.pad = s.pad ∧ t.variant = s.variant ∧ t.outlen = s.outlen ∧
    ∀ a, ¬(0xC0 ≤ a ∧ a ≤ 0xFD) → t.dataRead a = s.dataRead a

/-! ### Whole-machine rules -/

/-- R55 (derived there from R35 to R37 and R180 to R193), with what Safety.lean adds to it: a step keeps the invariant of the block. -/
def Obligations.StepKeepsInvariant : Prop :=
  ∀ s t : State, s.Inv → step s = .next t → t.Inv

/-- The invariant holds right after reset. -/
def Obligations.ResetMeetsInvariant : Prop :=
  State.Inv State.reset

/-- R38, R48: CFG is written only by INIT and by `rst`: a step that changes it ran an INIT command, or took `rst` (its count went up). -/
def Obligations.ConfigurationWriters : Prop :=
  ∀ s t : State, step s = .next t → ¬(t.rate = s.rate ∧ t.pad = s.pad ∧ t.variant = s.variant ∧ t.outlen = s.outlen) →
    (Input.reset ∈ s.inputs ∧ t.resets = s.resets + 1) ∨ ∃ w i, s.Ready w ∧ decode w = .ok i ∧ Instr.isInit i = true

/-- R34: a step that changes the lanes took `rst` (its count went up), or ran a command other than NOP, or performed and answered a host
write to the STATE window in IDLE (that its answer has the value 0 is the model's choice, log entry 13). -/
def Obligations.LaneFileWriters : Prop :=
  ∀ s t : State, step s = .next t → t.lanes ≠ s.lanes →
    (Input.reset ∈ s.inputs ∧ t.resets = s.resets + 1) ∨
    (∃ w i, s.Ready w ∧ decode w = .ok i ∧ i ≠ .nop) ∨
    (s.phase = .idle ∧ ∃ r v, Input.access r ∈ s.inputs ∧ r.legal = true ∧ r.op = .write v ∧
      0x100 ≤ r.offset.toNat ∧ r.offset.toNat < 0x1C8 ∧ t.responses = s.responses ++ [⟨r.agent, false, 0⟩])

/-- R35, R186, R244: SQUEEZE is entered only by FINAL, from ABSORB. -/
def Obligations.SqueezeEnteredByFinal : Prop :=
  ∀ s t : State, step s = .next t → t.phase = .squeeze → s.phase ≠ .squeeze →
    s.phase = .absorb ∧ s.Ready (encode .final)

/-- R33, R78: while a sponge is open, what the bus does and answers does not depend on the lanes, and leaves them alone. -/
def Obligations.OpenSpongeIsHidden : Prop :=
  ∀ (s t : State) (A : Lanes), s.phase ≠ .idle → s.held = none ∨ s.busyLeft ≠ 0 → Input.reset ∉ s.inputs → step s = .next t →
    t.lanes = s.lanes ∧ step { s with lanes := A } = .next { t with lanes := A }

/-! ### The sponge as a whole -/

/-- R179 (derived there from R183, R186, R190 and R175): however the message is cut between ABSORB commands and the output between
SQUEEZE commands, and whatever the host writes to DATA in between, the bytes squeezed are Sponge(RATE, PB(PAD), M, L) of R175. -/
def Obligations.SplittingDoesNotMatter : Prop :=
  ∀ (i : Instr) (s₀ s₁ : State) (ins outs : List Chunk), Instr.isInit i = true → exec i s₀ = .next s₁ → s₁.errcode = .ok →
    (∀ c ∈ ins ++ outs, c.off + c.len ≤ 256) →
    (s₁.outlen ≠ 0 → (outs.map Chunk.len).sum ≤ s₁.outlen.toNat) →
    ∃ s₂ s₃ s₄, absorbSession ins s₁ = some s₂ ∧ exec .final s₂ = .next s₃ ∧
      squeezeSession outs s₃ =
        some (sponge s₁.rate s₁.pad.byte (ins.flatMap fun c => (c.start s₁).dataBytes c.off c.len) (outs.map Chunk.len).sum, s₄)

/-- R217 (derived there from R216 and R228): EIP55's whole result depends on the address its text spells, not on the casing of the text.
-/
def Obligations.CasingDoesNotMatter : Prop :=
  ∀ (s t : State) (off off' : Nat), s.phase = .idle → t.phase = .idle → off + 40 ≤ 256 → off' + 40 ≤ 256 →
    (∀ k < 40, hexVal (s.dataRead (off + k)) ≠ none ∧ hexVal (t.dataRead (off' + k)) = hexVal (s.dataRead (off + k))) →
    ∃ u v, exec (.eip55 off 40) s = .next u ∧ exec (.eip55 off' 40) t = .next v ∧ u.errcode = .ok ∧ v.errcode = .ok ∧
      ∀ k < 62, v.dataRead (0xC0 + k) = u.dataRead (0xC0 + k)

/-- R213, R216, R228: the text ETHADDR writes is its own re-casing: EIP55 on it gives the same 62 result bytes again. -/
def Obligations.RecasingAnAddressKeepsIt : Prop :=
  ∀ (s : State) (off : Nat), s.phase = .idle → off + 64 ≤ 256 →
    ∃ t u, exec (.ethaddr off 64) s = .next t ∧ exec (.eip55 0xD6 40) t = .next u ∧ u.errcode = .ok ∧
      ∀ k < 62, u.dataRead (0xC0 + k) = t.dataRead (0xC0 + k)

/-- R211, R212: what the hex digits are, both ways. R213: decoding what was encoded gives it back, and encoding what was decoded gives the
text in lower case (its last sentence, derived there from R211 and R212). The ASCII codes are the spec's general-knowledge passage G6 (log
entry 11). -/
def Obligations.HexRoundTrip : Prop :=
  (∀ bs : List Byte, hexDecode (hexLower bs) = some bs) ∧
  (∀ cs bs : List Byte, hexDecode cs = some bs →
    (hexLower bs = cs.map fun c => if 0x41 ≤ c.toNat ∧ c.toNat ≤ 0x46 then c + 0x20 else c) ∧
    ∀ k < bs.length, ∃ h l, hexVal (cs.getD (2 * k) 0) = some h ∧ hexVal (cs.getD (2 * k + 1) 0) = some l ∧
      (bs.getD k 0).toNat = h * 16 + l) ∧
  (∀ (bs : List Byte) (k d e : Nat), k < bs.length → (bs.getD k 0).toNat = d * 16 + e → e < 16 →
    ((hexLower bs).getD (2 * k) 0).toNat = (if d < 10 then 0x30 + d else 0x61 + (d - 10)) ∧
    ((hexLower bs).getD (2 * k + 1) 0).toNat = if e < 10 then 0x30 + e else 0x61 + (e - 10)) ∧
  (∀ d < 10, hexVal (BitVec.ofNat 8 (0x30 + d)) = some d) ∧
  (∀ d < 6, hexVal (BitVec.ofNat 8 (0x61 + d)) = some (d + 10) ∧ hexVal (BitVec.ofNat 8 (0x41 + d)) = some (d + 10)) ∧
  ∀ c : Byte, hexVal c ≠ none →
    (0x30 ≤ c.toNat ∧ c.toNat ≤ 0x39) ∨ (0x61 ≤ c.toNat ∧ c.toNat ≤ 0x66) ∨ (0x41 ≤ c.toNat ∧ c.toNat ≤ 0x46)

/-! ### The permutation -/

/-- R132, by lane index (that the parity of column x + 1 is the rotated one is the spec's own, from general knowledge, G3; log entry 11):
column x is XORed with the parity of column x - 1 and the parity of column x + 1 rotated left by one. -/
def Obligations.ThetaLanes : Prop :=
  ∀ (A : Lanes) (x y : Nat), x < 5 → y < 5 →
    (theta A).lane (x + 5 * y) = A.lane (x + 5 * y) ^^^
      ((A.lane ((x + 4) % 5) ^^^ A.lane ((x + 4) % 5 + 5) ^^^ A.lane ((x + 4) % 5 + 10) ^^^ A.lane ((x + 4) % 5 + 15) ^^^
          A.lane ((x + 4) % 5 + 20)) ^^^
        BitVec.rotateLeft
          (A.lane ((x + 1) % 5) ^^^ A.lane ((x + 1) % 5 + 5) ^^^ A.lane ((x + 1) % 5 + 10) ^^^ A.lane ((x + 1) % 5 + 15) ^^^
            A.lane ((x + 1) % 5 + 20)) 1)

/-- R133, R135, R136, R137, by lane index x + 5y and with the model's tables (numbering and tables are general-knowledge passages G1, G2,
G4; log entry 11): rho, pi, chi and iota, lane by lane. -/
def Obligations.RhoPiChiIotaLanes : Prop :=
  ∀ (A : Lanes) (x y : Nat), x < 5 → y < 5 →
    (rho A).lane (x + 5 * y) = BitVec.rotateLeft (A.lane (x + 5 * y)) (rhoOffsets.getD (x + 5 * y) 0) ∧
    (piStep A).lane (y + 5 * ((2 * x + 3 * y) % 5)) = A.lane (x + 5 * y) ∧
    (chi A).lane (x + 5 * y) = A.lane (x + 5 * y) ^^^ (~~~A.lane ((x + 1) % 5 + 5 * y) &&& A.lane ((x + 2) % 5 + 5 * y)) ∧
    (∀ ir, (iota A ir).lane (x + 5 * y) = if x = 0 ∧ y = 0 then A.lane 0 ^^^ roundConstants.getD ir 0 else A.lane (x + 5 * y))

/-- R134 (from general knowledge, G2; log entry 11): the offsets are 25 values in [0, 63], r[0,0] = 0, generated along the walk from (1,
0). -/
def Obligations.RhoOffsetsGenerated : Prop :=
  rhoOffsets.length = 25 ∧ (∀ r ∈ rhoOffsets, r ≤ 63) ∧ rhoOffsets.getD 0 0 = 0 ∧
  ∀ t < 24, rhoOffsets.getD ((rhoWalk t).1 + 5 * (rhoWalk t).2) 0 = (t + 1) * (t + 2) / 2 % 64

/-- R138, R139 (from general knowledge, G1; log entry 11): there are 24 round constants, and bit n of RC[ir] is rc(j + 7*ir) where n =
2^j - 1 for j in 0..6, and 0 elsewhere. -/
def Obligations.RoundConstantsGenerated : Prop :=
  roundConstants.length = 24 ∧
  ∀ ir < 24, ∀ n < 64, (roundConstants.getD ir 0).getLsbD n = (List.range 7).any fun j => decide (n = 2 ^ j - 1) && lfsrBit (j + 7 * ir)

/-- R130 in the form of R140 (derived there from R133 and R135): Keccak-f is the 24 rounds 0 to 23 in order, each theta, then B[y,
2x+3y] = ROTL64(A[x,y], r[x,y]), then chi on B, then iota. Lane numbering and offsets are general-knowledge passages (log entry 11). -/
def Obligations.RoundsInCombinedForm : Prop :=
  ∃ B : Lanes → Lanes,
    (∀ (A : Lanes) (x y : Nat), x < 5 → y < 5 →
      (B A).lane (y + 5 * ((2 * x + 3 * y) % 5)) = BitVec.rotateLeft (A.lane (x + 5 * y)) (rhoOffsets.getD (x + 5 * y) 0)) ∧
    ∀ A : Lanes, keccakF A = (List.range 24).foldl (fun A ir => iota (chi (B (theta A))) ir) A

/-! ### The host interface -/

/-- R74, R75: which accesses are legal, and that every other is a bus error: answered with the error response and 0, and no effect. That
sizes such as 0 and 3 are errors is DEDUCED (log entry 12), the value 0 for an erring write the model's choice (log entry 13), the list of
answers the model's form of the bus (log entry 3). -/
def Obligations.BusErrors : Prop :=
  ∀ (s : State) (r : Request),
    (r.legal = true ↔
      (r.offset.toNat ≤ 0x0FF ∧ r.size = 4 ∧ 4 ∣ r.offset.toNat) ∨
      (0x100 ≤ r.offset.toNat ∧ (r.size = 1 ∨ (r.size = 2 ∧ 2 ∣ r.offset.toNat) ∨ (r.size = 4 ∧ 4 ∣ r.offset.toNat)))) ∧
    (r.legal = false → s.perform r = { s with responses := s.responses ++ [⟨r.agent, true, 0⟩] })

/-- R77: a read changes no state; it only answers, and a legal one answers what `State.busRead` gives. R71, R74: a legal write does what
`State.busWrite` does, and is answered. What these two do is said by the statements on registers and windows. The list of answers is the
model's form of the bus (log entry 3), a legal write's answer its choice (log entry 13). -/
def Obligations.ReadsHaveNoEffect : Prop :=
  ∀ (s : State) (r : Request),
    (r.op = .read → ∃ a, s.perform r = { s with responses := s.responses ++ [a] }) ∧
    (r.legal = true → r.op = .read →
      s.perform r = { s with responses := s.responses ++ [⟨r.agent, false, s.busRead r.offset.toNat r.size⟩] }) ∧
    ∀ v, r.legal = true → r.op = .write v →
      s.perform r = { s.busWrite r.offset.toNat r.size v with responses := s.responses ++ [⟨r.agent, false, 0⟩] }

/-- R40: each field of STATUS at its bits, the reserved bits 0; with the codes of ERRCODE (R241) and PHASE (R35) as numbers. -/
def Obligations.StatusFields : Prop :=
  ∀ s : State,
    s.busRead 0x00C 4 = s.statusWord ∧
    s.statusWord.getLsbD 0 = s.held.isSome ∧ s.statusWord.getLsbD 1 = s.done ∧ s.statusWord.getLsbD 2 = s.err ∧
    s.statusWord.extractLsb' 3 5 = 0 ∧
    s.statusWord.extractLsb' 8 4 = (match s.errcode with
      | .ok => 0 | .illegalCommand => 1 | .configurationError => 2 | .sequenceError => 3
      | .bufferRange => 4 | .invalidKeySize => 5 | .invalidEncoding => 6 | .outputLength => 7) ∧
    s.statusWord.extractLsb' 12 2 = (match s.phase with | .idle => 0 | .absorb => 1 | .squeeze => 2) ∧
    s.statusWord.extractLsb' 14 18 = 0

/-- R48: each field of CFG at its bits, the reserved bits 0; with the codes of PAD (R38) and VARIANT (R171) as numbers. -/
def Obligations.CfgFields : Prop :=
  ∀ s : State,
    s.busRead 0x014 4 = s.cfgWord ∧
    s.cfgWord.extractLsb' 0 8 = s.rate ∧
    s.cfgWord.extractLsb' 8 2 = (match s.pad with | .keccakOriginal => 0 | .sha3Nist => 1 | .shake => 2) ∧
    s.cfgWord.extractLsb' 10 2 = 0 ∧
    s.cfgWord.extractLsb' 12 3 = (match s.variant with
      | .custom => 0 | .sha3_224 => 1 | .sha3_256 => 2 | .sha3_384 => 3
      | .sha3_512 => 4 | .shake128 => 5 | .shake256 => 6 | .keccak256 => 7) ∧
    s.cfgWord.extractLsb' 15 1 = 0 ∧ s.cfgWord.extractLsb' 16 8 = s.outlen ∧ s.cfgWord.extractLsb' 24 8 = 0

/-- R41 to R50: what the other registers and the reserved registers read. -/
def Obligations.RegisterReads : Prop :=
  ∀ s : State,
    s.busRead 0x000 4 = 0x4B454343 ∧ s.busRead 0x004 4 = 0x00000001 ∧
    (s.busRead 0x008 4).getLsbD 0 = s.ie ∧ (s.busRead 0x008 4).extractLsb' 1 31 = 0 ∧
    s.busRead 0x010 4 = 0 ∧ (s.busRead 0x018 4).extractLsb' 0 8 = s.pos ∧ (s.busRead 0x018 4).extractLsb' 8 24 = 0 ∧
    s.busRead 0x01C 4 = s.outcnt ∧ s.busRead 0x020 4 = s.errinfo ∧ ∀ o, 0x024 ≤ o → o < 0x100 → s.busRead o 4 = 0

/-- R40 to R50: what a 4-byte write to each register does, and that no other register takes one. -/
def Obligations.RegisterWrites : Prop :=
  ∀ (s : State) (v : Word),
    s.busWrite 0x008 4 v = { s with ie := v.getLsbD 0 } ∧
    s.busWrite 0x00C 4 v = { s with
      done := if v.getLsbD 1 then false else s.done, err := if v.getLsbD 2 then false else s.err } ∧
    (∃ n p, s.busWrite 0x010 4 v = { s with held := some v, done := false, busyLeft := n, pace := p }) ∧
    ∀ o, o < 0x100 → o ≠ 0x008 → o ≠ 0x00C → o ≠ 0x010 → s.busWrite o 4 v = s

/-- R78 with R71 and R72: in IDLE a 1-, 2- or 4-byte access to the STATE window reads and sets the state bytes from StateByte(j) on,
little-endian, and no other byte; in ABSORB and SQUEEZE it reads 0 and ignores writes. -/
def Obligations.StateWindow : Prop :=
  ∀ (s : State) (j n : Nat) (v : Word), n = 1 ∨ n = 2 ∨ n = 4 → j + n ≤ 200 →
    (s.phase = .idle →
      (∀ k < n, (s.busRead (0x100 + j) n).extractLsb' (8 * k) 8 = s.lanes.byte (j + k)) ∧
      (s.busRead (0x100 + j) n).toNat < 2 ^ (8 * n) ∧
      ∃ B : Lanes, s.busWrite (0x100 + j) n v = { s with lanes := B } ∧
        ∀ k < 200, B.byte k = if j ≤ k ∧ k < j + n then v.extractLsb' (8 * (k - j)) 8 else s.lanes.byte k) ∧
    (s.phase ≠ .idle → s.busRead (0x100 + j) n = 0 ∧ s.busWrite (0x100 + j) n v = s)

/-- R72 (derived there from R71 and R32): a 4-byte read at 0x100 + 8i is A[i][31:0], one at 0x104 + 8i is A[i][63:32]. -/
def Obligations.StateWindowLanes : Prop :=
  ∀ (s : State) (i : Nat), i < 25 → s.phase = .idle →
    s.busRead (0x100 + 8 * i) 4 = (s.lanes.lane i).extractLsb' 0 32 ∧ s.busRead (0x104 + 8 * i) 4 = (s.lanes.lane i).extractLsb' 32 32

/-- R71, R79: what is written to DATA, 1, 2 or 4 bytes wide, is read back in the same width, little-endian, in every phase; no other
DATA byte changes. R77: such a write stores bytes only; nothing but the DATA memory changes. -/
def Obligations.DataReadAfterWrite : Prop :=
  ∀ (s : State) (k n : Nat) (v : Word), n = 1 ∨ n = 2 ∨ n = 4 → k + n ≤ 256 →
    ((s.busWrite (0x200 + k) n v).busRead (0x200 + k) n).toNat = v.toNat % 2 ^ (8 * n) ∧
    (∀ j < n, (s.busWrite (0x200 + k) n v).dataRead (k + j) = v.extractLsb' (8 * j) 8) ∧
    (∀ a, ¬(k ≤ a ∧ a < k + n) → (s.busWrite (0x200 + k) n v).dataRead a = s.dataRead a) ∧
    ∃ m : Memory, s.busWrite (0x200 + k) n v = { s with data := m }

/-- R50: the reserved ranges above the registers read 0 and ignore writes, without error. -/
def Obligations.ReservedRanges : Prop :=
  ∀ (s : State) (o n : Nat) (v : Word), n = 1 ∨ n = 2 ∨ n = 4 →
    (0x1C8 ≤ o ∧ o + n ≤ 0x200) ∨ (0x300 ≤ o ∧ o + n ≤ 0x400) → s.busRead o n = 0 ∧ s.busWrite o n v = s

/-- R255: irq is IE and DONE; a command that completes, with or without error, sets it if IE is set; an accepted CMD write, a 1 written
to DONE and reset clear it; and DONE is set by nothing but the completion of the held word. -/
def Obligations.InterruptOutput : Prop :=
  (∀ s : State, s.irq = (s.ie && s.done)) ∧
  (∀ (i : Instr) (s t : State), exec i s = .next t → t.irq = s.ie) ∧
  (∀ (s : State) (v : Word), (s.busWrite 0x010 4 v).irq = false ∧ (v.getLsbD 1 = true → (s.busWrite 0x00C 4 v).irq = false)) ∧
  State.irq State.reset = false ∧
  (∀ s t : State, step s = .next t → t.done = true → s.done = false → ∃ w, s.Ready w)

/-! ### Reset -/

/-- R54: the state right after reset, DATA apart. -/
def Obligations.ResetValues : Prop :=
  (∀ i < 25, State.reset.lanes.lane i = 0) ∧ State.reset.phase = .idle ∧ State.reset.pos = 0 ∧ State.reset.outcnt = 0 ∧
  State.reset.cfgWord = 0 ∧ State.reset.statusWord = 0 ∧ State.reset.errinfo = 0 ∧ State.reset.ctrlWord = 0 ∧
  State.reset.held = none

/-- R280, R281, R247, `rst` being an input of the model (log entry 5): once it is the oldest input that is not held, the step takes it,
whatever the engine is doing: the state after it has the reset values, nothing is held, and the command in progress has neither completed
nor written DATA (no byte of it is a written one). Of the accesses held in front of it only writes may still be to be performed, in their
order (U5), and each gets at most one answer. -/
def Obligations.ResetInput : Prop :=
  ∀ (s : State) (bs : List Request) (xs : List Input), s.inputs = bs.map .access ++ .reset :: xs →
    bs = [] ∨ (s.held ≠ none ∧ ∀ b ∈ bs, b.legal = true ∧ ¬(b.offset = 0x00C ∧ b.size = 4)) →
    ∃ (t : State) (ks : List Request) (as : List Response), step s = .next t ∧
      SameEngine { State.reset with resets := s.resets + 1, engine := s.engine } t ∧
      t.held = none ∧ t.done = false ∧ t.err = false ∧
      t.inputs = ks.map .access ++ xs ∧ ks.Sublist (bs.filter fun b => decide (b.op ≠ .read)) ∧
      t.responses = s.responses ++ as ∧ ks.length + as.length ≤ bs.length

/-! ### Several engines -/

/-- R262: a step of one engine changes no other. -/
def Obligations.OtherEnginesUntouched : Prop :=
  ∀ (p q : Platform) (k j : Nat), p.stepAt k = .next q → j ≠ k → q.engines[j]? = p.engines[j]?
end

