-- ==== Sys2Proof/Laws/Keccak.lean ====
section
/-! SUPPORT. Reading and writing lanes and state bytes. -/

namespace Sys2Proof.Machine

theorem Lanes.lane_eq (A : Lanes) {i : Nat} (h : i < 25) : A.lane i = A[i] := by
  simp [Lanes.lane, List.getD_eq_getElem?_getD, h]

/-- Two lane files with the same 25 lanes are equal. -/
theorem Lanes.ext_lane {A B : Lanes} (h : ∀ i < 25, A.lane i = B.lane i) : A = B := by
  apply Vector.ext
  intro i hi
  rw [← Lanes.lane_eq A hi, ← Lanes.lane_eq B hi]
  exact h i hi

/-- A lane of a lane file built by columns and rows. -/
theorem Lanes.lane_build (f : Nat → Nat → Lane) {i : Nat} (h : i < 25) : (Lanes.build f).lane i = f (i % 5) (i / 5) := by
  have : i = 0 ∨ i = 1 ∨ i = 2 ∨ i = 3 ∨ i = 4 ∨ i = 5 ∨ i = 6 ∨ i = 7 ∨ i = 8 ∨ i = 9 ∨ i = 10 ∨ i = 11 ∨ i = 12 ∨ i = 13 ∨ i = 14 ∨
    i = 15 ∨ i = 16 ∨ i = 17 ∨ i = 18 ∨ i = 19 ∨ i = 20 ∨ i = 21 ∨ i = 22 ∨ i = 23 ∨ i = 24 := by omega
  rcases this with h | h | h | h | h | h | h | h | h | h | h | h | h | h | h | h | h | h | h | h | h | h | h | h | h <;> subst h <;> rfl

theorem Lanes.xy_build (f : Nat → Nat → Lane) (x y : Nat) : (Lanes.build f).xy x y = f (x % 5) (y % 5) := by
  rw [Lanes.xy, Lanes.lane_build f (by omega)]
  congr 1 <;> omega

theorem Lanes.lane_set (A : Lanes) (i j : Nat) (v : Lane) (hi : i < 25) :
    Lanes.lane (A.setIfInBounds i v) j = if j = i then v else A.lane j := by
  by_cases hj : j < 25
  · rw [Lanes.lane_eq _ hj, Lanes.lane_eq _ hj, Vector.getElem_setIfInBounds]
    by_cases h : i = j <;> simp [h, eq_comm]
  · have : j ≠ i := by omega
    simp [Lanes.lane, List.getD_eq_getElem?_getD, hj, this]

/-- Writing above the 25 lanes changes nothing. -/
theorem Lanes.set_outside (A : Lanes) {i : Nat} (v : Lane) (h : 25 ≤ i) : A.setIfInBounds i v = A := by
  apply Vector.ext
  intro j hj
  rw [Vector.getElem_setIfInBounds]
  split
  · omega
  · rfl

@[simp] theorem Lanes.lane_zero (i : Nat) : Lanes.zero.lane i = 0 := by
  by_cases h : i < 25
  · rw [Lanes.lane_eq _ h]; simp [Lanes.zero]
  · simp [Lanes.lane, List.getD_eq_getElem?_getD, h]

theorem Lanes.getLsbD_byte (A : Lanes) (j n : Nat) :
    (A.byte j).getLsbD n = (decide (n < 8) && (A.lane (j / 8)).getLsbD (8 * (j % 8) + n)) := by
  simp [Lanes.byte, BitVec.getLsbD_setWidth, BitVec.getLsbD_ushiftRight]

/-- StateByte(j) ^= b changes byte j by b and no other byte (R32). -/
theorem Lanes.byte_xorByte (A : Lanes) (j k : Nat) (b : Byte) (hj : j < 200) :
    (A.xorByte j b).byte k = if k = j then A.byte j ^^^ b else A.byte k := by
  apply BitVec.eq_of_getLsbD_eq
  intro n hn
  rw [Lanes.getLsbD_byte, Lanes.xorByte, Lanes.lane_set _ _ _ _ (by omega)]
  by_cases hk : k = j
  · subst hk
    have h1 : 8 * (k % 8) + n < 64 := by omega
    have h2 : n < 64 := by omega
    rw [if_pos rfl, if_pos rfl, BitVec.getLsbD_xor, BitVec.getLsbD_xor, BitVec.getLsbD_shiftLeft, BitVec.getLsbD_setWidth,
      Lanes.getLsbD_byte]
    simp [h1, h2, hn]
  · rw [if_neg hk, Lanes.getLsbD_byte]
    by_cases h8 : k / 8 = j / 8
    · simp only [h8, if_true, BitVec.getLsbD_xor, BitVec.getLsbD_shiftLeft, BitVec.getLsbD_setWidth]
      have h1 : b.getLsbD (8 * (k % 8) + n - 8 * (j % 8)) = false ∨ 8 * (k % 8) + n < 8 * (j % 8) := by
        by_cases h : 8 * (k % 8) + n < 8 * (j % 8)
        · exact .inr h
        · left
          apply BitVec.getLsbD_of_ge
          omega
      rcases h1 with h1 | h1 <;> simp [h1]
    · rw [if_neg h8]

/-- StateByte(j) <- b sets byte j and no other (R78). -/
theorem Lanes.byte_setByte (A : Lanes) (j k : Nat) (b : Byte) (hj : j < 200) :
    (A.setByte j b).byte k = if k = j then b else A.byte k := by
  rw [Lanes.setByte, Lanes.byte_xorByte _ _ _ _ hj]
  split
  · rw [← BitVec.xor_assoc, BitVec.xor_self, BitVec.zero_xor]
  · rfl

/-- The bytes of a lane file determine it (R32). -/
theorem Lanes.ext_byte {A B : Lanes} (h : ∀ j < 200, A.byte j = B.byte j) : A = B := by
  apply Lanes.ext_lane
  intro i hi
  apply BitVec.eq_of_getLsbD_eq
  intro n hn
  have hb := congrArg (BitVec.getLsbD · (n % 8)) (h (8 * i + n / 8) (by omega))
  simp only [Lanes.getLsbD_byte] at hb
  have e1 : (8 * i + n / 8) / 8 = i := by omega
  have e2 : 8 * ((8 * i + n / 8) % 8) + n % 8 = n := by omega
  have e3 : n % 8 < 8 := by omega
  rw [e1, e2] at hb
  simpa only [e3, decide_true, Bool.true_and] using hb

end Sys2Proof.Machine
end

