-- ==== Sys2Proof/Laws/Memory.lean ====
section
/-! SUPPORT. The DATA buffer: read after write, what a write leaves alone, and that every write keeps the canonical form. -/

namespace Sys2Proof.Machine

theorem Memory.read_write (m : Memory) (a k : Nat) (b : Byte) :
    (m.write a b).read k = if k = a then some b else m.read k := by
  induction m with
  | nil => simp [Memory.write, Memory.read]
  | cons c m ih =>
    obtain ⟨j, d⟩ := c
    unfold Memory.write
    split
    · rfl
    · split
      · subst_vars
        simp only [Memory.read]
        split <;> simp_all
      · simp only [Memory.read, ih]
        split
        · rw [if_neg (by omega)]
        · rfl

theorem Memory.read_writeBytes (bs : List Byte) (m : Memory) (a k : Nat) :
    (m.writeBytes a bs).read k = if a ≤ k ∧ k < a + bs.length then bs[k - a]? else m.read k := by
  induction bs generalizing m a with
  | nil => simp [Memory.writeBytes]
  | cons b bs ih =>
    rw [Memory.writeBytes, ih, Memory.read_write]
    by_cases h1 : a + 1 ≤ k ∧ k < a + 1 + bs.length
    · rw [if_pos h1, if_pos (by simp; omega), show k - a = (k - (a + 1)) + 1 by omega, List.getElem?_cons_succ]
    · rw [if_neg h1]
      by_cases h2 : k = a
      · subst h2; simp
      · rw [if_neg h2, if_neg (by simp; omega)]

theorem Memory.writeBytes_append (bs cs : List Byte) (m : Memory) (a : Nat) :
    m.writeBytes a (bs ++ cs) = (m.writeBytes a bs).writeBytes (a + bs.length) cs := by
  induction bs generalizing m a with
  | nil => rfl
  | cons b bs ih =>
    simp only [List.cons_append, Memory.writeBytes, ih, List.length_cons]
    congr 1; omega

theorem Memory.wfFrom_write (m : Memory) (lo a : Nat) (b : Byte) (h : m.wfFrom lo = true) (hlo : lo ≤ a) (ha : a < 256) :
    (m.write a b).wfFrom lo = true := by
  induction m generalizing lo with
  | nil => simp [Memory.write, Memory.wfFrom]; omega
  | cons c m ih =>
    obtain ⟨k, d⟩ := c
    simp only [Memory.wfFrom, Bool.and_eq_true, decide_eq_true_eq] at h
    unfold Memory.write
    split
    · simp only [Memory.wfFrom, Bool.and_eq_true, decide_eq_true_eq]
      exact ⟨⟨hlo, ha⟩, ⟨by omega, h.1.2⟩, h.2⟩
    · split
      · subst_vars
        simp only [Memory.wfFrom, Bool.and_eq_true, decide_eq_true_eq]
        exact ⟨⟨hlo, ha⟩, h.2⟩
      · simp only [Memory.wfFrom, Bool.and_eq_true, decide_eq_true_eq]
        exact ⟨h.1, ih _ h.2 (by omega)⟩

/-- A write inside the buffer keeps the canonical form. -/
theorem Memory.wf_write {m : Memory} (h : m.wf = true) {a : Nat} (ha : a < 256) (b : Byte) : (m.write a b).wf = true :=
  Memory.wfFrom_write m 0 a b h (Nat.zero_le a) ha

theorem Memory.wf_writeBytes (bs : List Byte) {m : Memory} (h : m.wf = true) {a : Nat} (ha : a + bs.length ≤ 256) :
    (m.writeBytes a bs).wf = true := by
  induction bs generalizing m a with
  | nil => exact h
  | cons b bs ih =>
    simp only [List.length_cons] at ha
    exact ih (Memory.wf_write h (by omega) b) (by omega)

@[simp] theorem State.length_dataBytes (s : State) (off len : Nat) : (s.dataBytes off len).length = len := by
  simp [State.dataBytes]

theorem State.dataBytes_add (s : State) (off m n : Nat) :
    s.dataBytes off (m + n) = s.dataBytes off m ++ s.dataBytes (off + m) n := by
  simp [State.dataBytes, List.range_add, Nat.add_assoc]

theorem State.dataBytes_succ (s : State) (off n : Nat) :
    s.dataBytes off (n + 1) = s.dataBytes off n ++ [s.dataRead (off + n)] := by
  rw [State.dataBytes_add]; simp [State.dataBytes]

/-- What DATA reads as after bytes have been written to it. -/
theorem State.dataRead_writeBytes {s t : State} {m : Memory} {a : Nat} {bs : List Byte} (hm : s.data = m)
    (ht : t.data = m.writeBytes a bs) (hr : t.resets = s.resets) (he : t.engine = s.engine) (k : Nat) :
    t.dataRead k = if a ≤ k ∧ k < a + bs.length then bs.getD (k - a) 0 else s.dataRead k := by
  unfold State.dataRead
  rw [ht, hr, he, hm, Memory.read_writeBytes]
  split
  · rename_i h
    rw [List.getD_eq_getElem?_getD, List.getElem?_eq_getElem (by omega)]; rfl
  · rfl

end Sys2Proof.Machine
end

