-- ==== Sys2Proof/Laws/State.lean ====
section
/-! SUPPORT. What each update of State does to each field, one lemma per field, so that no later proof unfolds a record update
(nor the hashes inside one). -/

namespace Sys2Proof.Machine

@[simp] theorem State.complete_lanes (s : State) (w : Word) (code : ErrorCode) : (s.complete w code).lanes = s.lanes := rfl
@[simp] theorem State.complete_phase (s : State) (w : Word) (code : ErrorCode) : (s.complete w code).phase = s.phase := rfl
@[simp] theorem State.complete_pos (s : State) (w : Word) (code : ErrorCode) : (s.complete w code).pos = s.pos := rfl
@[simp] theorem State.complete_outcnt (s : State) (w : Word) (code : ErrorCode) : (s.complete w code).outcnt = s.outcnt := rfl
@[simp] theorem State.complete_rate (s : State) (w : Word) (code : ErrorCode) : (s.complete w code).rate = s.rate := rfl
@[simp] theorem State.complete_pad (s : State) (w : Word) (code : ErrorCode) : (s.complete w code).pad = s.pad := rfl
@[simp] theorem State.complete_variant (s : State) (w : Word) (code : ErrorCode) : (s.complete w code).variant = s.variant := rfl
@[simp] theorem State.complete_outlen (s : State) (w : Word) (code : ErrorCode) : (s.complete w code).outlen = s.outlen := rfl
@[simp] theorem State.complete_held (s : State) (w : Word) (code : ErrorCode) : (s.complete w code).held = none := rfl
@[simp] theorem State.complete_done (s : State) (w : Word) (code : ErrorCode) : (s.complete w code).done = true := rfl
@[simp] theorem State.complete_err (s : State) (w : Word) (code : ErrorCode) : (s.complete w code).err = if code = .ok then s.err else true := rfl
@[simp] theorem State.complete_errcode (s : State) (w : Word) (code : ErrorCode) : (s.complete w code).errcode = code := rfl
@[simp] theorem State.complete_errinfo (s : State) (w : Word) (code : ErrorCode) : (s.complete w code).errinfo = if code = .ok then s.errinfo else w := rfl
@[simp] theorem State.complete_ie (s : State) (w : Word) (code : ErrorCode) : (s.complete w code).ie = s.ie := rfl
@[simp] theorem State.complete_data (s : State) (w : Word) (code : ErrorCode) : (s.complete w code).data = s.data := rfl
@[simp] theorem State.complete_busyLeft (s : State) (w : Word) (code : ErrorCode) : (s.complete w code).busyLeft = s.busyLeft := rfl
@[simp] theorem State.complete_pace (s : State) (w : Word) (code : ErrorCode) : (s.complete w code).pace = s.pace := rfl
@[simp] theorem State.complete_inputs (s : State) (w : Word) (code : ErrorCode) : (s.complete w code).inputs = s.inputs := rfl
@[simp] theorem State.complete_responses (s : State) (w : Word) (code : ErrorCode) : (s.complete w code).responses = s.responses := rfl
@[simp] theorem State.complete_resets (s : State) (w : Word) (code : ErrorCode) : (s.complete w code).resets = s.resets := rfl
@[simp] theorem State.complete_engine (s : State) (w : Word) (code : ErrorCode) : (s.complete w code).engine = s.engine := rfl

@[simp] theorem State.writeStatus_lanes (s : State) (v : Word) : (s.writeStatus v).lanes = s.lanes := rfl
@[simp] theorem State.writeStatus_phase (s : State) (v : Word) : (s.writeStatus v).phase = s.phase := rfl
@[simp] theorem State.writeStatus_pos (s : State) (v : Word) : (s.writeStatus v).pos = s.pos := rfl
@[simp] theorem State.writeStatus_outcnt (s : State) (v : Word) : (s.writeStatus v).outcnt = s.outcnt := rfl
@[simp] theorem State.writeStatus_rate (s : State) (v : Word) : (s.writeStatus v).rate = s.rate := rfl
@[simp] theorem State.writeStatus_pad (s : State) (v : Word) : (s.writeStatus v).pad = s.pad := rfl
@[simp] theorem State.writeStatus_variant (s : State) (v : Word) : (s.writeStatus v).variant = s.variant := rfl
@[simp] theorem State.writeStatus_outlen (s : State) (v : Word) : (s.writeStatus v).outlen = s.outlen := rfl
@[simp] theorem State.writeStatus_held (s : State) (v : Word) : (s.writeStatus v).held = s.held := rfl
@[simp] theorem State.writeStatus_done (s : State) (v : Word) : (s.writeStatus v).done = (s.done && !v.getLsbD 1) := rfl
@[simp] theorem State.writeStatus_err (s : State) (v : Word) : (s.writeStatus v).err = (s.err && !v.getLsbD 2) := rfl
@[simp] theorem State.writeStatus_errcode (s : State) (v : Word) : (s.writeStatus v).errcode = s.errcode := rfl
@[simp] theorem State.writeStatus_errinfo (s : State) (v : Word) : (s.writeStatus v).errinfo = s.errinfo := rfl
@[simp] theorem State.writeStatus_ie (s : State) (v : Word) : (s.writeStatus v).ie = s.ie := rfl
@[simp] theorem State.writeStatus_data (s : State) (v : Word) : (s.writeStatus v).data = s.data := rfl
@[simp] theorem State.writeStatus_busyLeft (s : State) (v : Word) : (s.writeStatus v).busyLeft = s.busyLeft := rfl
@[simp] theorem State.writeStatus_pace (s : State) (v : Word) : (s.writeStatus v).pace = s.pace := rfl
@[simp] theorem State.writeStatus_inputs (s : State) (v : Word) : (s.writeStatus v).inputs = s.inputs := rfl
@[simp] theorem State.writeStatus_responses (s : State) (v : Word) : (s.writeStatus v).responses = s.responses := rfl
@[simp] theorem State.writeStatus_resets (s : State) (v : Word) : (s.writeStatus v).resets = s.resets := rfl
@[simp] theorem State.writeStatus_engine (s : State) (v : Word) : (s.writeStatus v).engine = s.engine := rfl

@[simp] theorem State.keccakF_lanes (s : State) : (s.keccakF).lanes = Machine.keccakF s.lanes := rfl
@[simp] theorem State.keccakF_phase (s : State) : (s.keccakF).phase = s.phase := rfl
@[simp] theorem State.keccakF_pos (s : State) : (s.keccakF).pos = s.pos := rfl
@[simp] theorem State.keccakF_outcnt (s : State) : (s.keccakF).outcnt = s.outcnt := rfl
@[simp] theorem State.keccakF_rate (s : State) : (s.keccakF).rate = s.rate := rfl
@[simp] theorem State.keccakF_pad (s : State) : (s.keccakF).pad = s.pad := rfl
@[simp] theorem State.keccakF_variant (s : State) : (s.keccakF).variant = s.variant := rfl
@[simp] theorem State.keccakF_outlen (s : State) : (s.keccakF).outlen = s.outlen := rfl
@[simp] theorem State.keccakF_held (s : State) : (s.keccakF).held = s.held := rfl
@[simp] theorem State.keccakF_done (s : State) : (s.keccakF).done = s.done := rfl
@[simp] theorem State.keccakF_err (s : State) : (s.keccakF).err = s.err := rfl
@[simp] theorem State.keccakF_errcode (s : State) : (s.keccakF).errcode = s.errcode := rfl
@[simp] theorem State.keccakF_errinfo (s : State) : (s.keccakF).errinfo = s.errinfo := rfl
@[simp] theorem State.keccakF_ie (s : State) : (s.keccakF).ie = s.ie := rfl
@[simp] theorem State.keccakF_data (s : State) : (s.keccakF).data = s.data := rfl
@[simp] theorem State.keccakF_busyLeft (s : State) : (s.keccakF).busyLeft = s.busyLeft := rfl
@[simp] theorem State.keccakF_pace (s : State) : (s.keccakF).pace = s.pace := rfl
@[simp] theorem State.keccakF_inputs (s : State) : (s.keccakF).inputs = s.inputs := rfl
@[simp] theorem State.keccakF_responses (s : State) : (s.keccakF).responses = s.responses := rfl
@[simp] theorem State.keccakF_resets (s : State) : (s.keccakF).resets = s.resets := rfl
@[simp] theorem State.keccakF_engine (s : State) : (s.keccakF).engine = s.engine := rfl

@[simp] theorem State.toIdle_lanes (s : State) : (s.toIdle).lanes = Lanes.zero := rfl
@[simp] theorem State.toIdle_phase (s : State) : (s.toIdle).phase = .idle := rfl
@[simp] theorem State.toIdle_pos (s : State) : (s.toIdle).pos = 0 := rfl
@[simp] theorem State.toIdle_outcnt (s : State) : (s.toIdle).outcnt = 0 := rfl
@[simp] theorem State.toIdle_rate (s : State) : (s.toIdle).rate = s.rate := rfl
@[simp] theorem State.toIdle_pad (s : State) : (s.toIdle).pad = s.pad := rfl
@[simp] theorem State.toIdle_variant (s : State) : (s.toIdle).variant = s.variant := rfl
@[simp] theorem State.toIdle_outlen (s : State) : (s.toIdle).outlen = s.outlen := rfl
@[simp] theorem State.toIdle_held (s : State) : (s.toIdle).held = s.held := rfl
@[simp] theorem State.toIdle_done (s : State) : (s.toIdle).done = s.done := rfl
@[simp] theorem State.toIdle_err (s : State) : (s.toIdle).err = s.err := rfl
@[simp] theorem State.toIdle_errcode (s : State) : (s.toIdle).errcode = s.errcode := rfl
@[simp] theorem State.toIdle_errinfo (s : State) : (s.toIdle).errinfo = s.errinfo := rfl
@[simp] theorem State.toIdle_ie (s : State) : (s.toIdle).ie = s.ie := rfl
@[simp] theorem State.toIdle_data (s : State) : (s.toIdle).data = s.data := rfl
@[simp] theorem State.toIdle_busyLeft (s : State) : (s.toIdle).busyLeft = s.busyLeft := rfl
@[simp] theorem State.toIdle_pace (s : State) : (s.toIdle).pace = s.pace := rfl
@[simp] theorem State.toIdle_inputs (s : State) : (s.toIdle).inputs = s.inputs := rfl
@[simp] theorem State.toIdle_responses (s : State) : (s.toIdle).responses = s.responses := rfl
@[simp] theorem State.toIdle_resets (s : State) : (s.toIdle).resets = s.resets := rfl
@[simp] theorem State.toIdle_engine (s : State) : (s.toIdle).engine = s.engine := rfl

@[simp] theorem State.accept_lanes (s : State) (w : Word) : (s.accept w).lanes = s.lanes := rfl
@[simp] theorem State.accept_phase (s : State) (w : Word) : (s.accept w).phase = s.phase := rfl
@[simp] theorem State.accept_pos (s : State) (w : Word) : (s.accept w).pos = s.pos := rfl
@[simp] theorem State.accept_outcnt (s : State) (w : Word) : (s.accept w).outcnt = s.outcnt := rfl
@[simp] theorem State.accept_rate (s : State) (w : Word) : (s.accept w).rate = s.rate := rfl
@[simp] theorem State.accept_pad (s : State) (w : Word) : (s.accept w).pad = s.pad := rfl
@[simp] theorem State.accept_variant (s : State) (w : Word) : (s.accept w).variant = s.variant := rfl
@[simp] theorem State.accept_outlen (s : State) (w : Word) : (s.accept w).outlen = s.outlen := rfl
@[simp] theorem State.accept_held (s : State) (w : Word) : (s.accept w).held = some w := rfl
@[simp] theorem State.accept_done (s : State) (w : Word) : (s.accept w).done = false := rfl
@[simp] theorem State.accept_err (s : State) (w : Word) : (s.accept w).err = s.err := rfl
@[simp] theorem State.accept_errcode (s : State) (w : Word) : (s.accept w).errcode = s.errcode := rfl
@[simp] theorem State.accept_errinfo (s : State) (w : Word) : (s.accept w).errinfo = s.errinfo := rfl
@[simp] theorem State.accept_ie (s : State) (w : Word) : (s.accept w).ie = s.ie := rfl
@[simp] theorem State.accept_data (s : State) (w : Word) : (s.accept w).data = s.data := rfl
@[simp] theorem State.accept_busyLeft (s : State) (w : Word) : (s.accept w).busyLeft = s.pace.headD 0 := rfl
@[simp] theorem State.accept_pace (s : State) (w : Word) : (s.accept w).pace = s.pace.tail := rfl
@[simp] theorem State.accept_inputs (s : State) (w : Word) : (s.accept w).inputs = s.inputs := rfl
@[simp] theorem State.accept_responses (s : State) (w : Word) : (s.accept w).responses = s.responses := rfl
@[simp] theorem State.accept_resets (s : State) (w : Word) : (s.accept w).resets = s.resets := rfl
@[simp] theorem State.accept_engine (s : State) (w : Word) : (s.accept w).engine = s.engine := rfl

@[simp] theorem State.respond_lanes (s : State) (a : Response) : (s.respond a).lanes = s.lanes := rfl
@[simp] theorem State.respond_phase (s : State) (a : Response) : (s.respond a).phase = s.phase := rfl
@[simp] theorem State.respond_pos (s : State) (a : Response) : (s.respond a).pos = s.pos := rfl
@[simp] theorem State.respond_outcnt (s : State) (a : Response) : (s.respond a).outcnt = s.outcnt := rfl
@[simp] theorem State.respond_rate (s : State) (a : Response) : (s.respond a).rate = s.rate := rfl
@[simp] theorem State.respond_pad (s : State) (a : Response) : (s.respond a).pad = s.pad := rfl
@[simp] theorem State.respond_variant (s : State) (a : Response) : (s.respond a).variant = s.variant := rfl
@[simp] theorem State.respond_outlen (s : State) (a : Response) : (s.respond a).outlen = s.outlen := rfl
@[simp] theorem State.respond_held (s : State) (a : Response) : (s.respond a).held = s.held := rfl
@[simp] theorem State.respond_done (s : State) (a : Response) : (s.respond a).done = s.done := rfl
@[simp] theorem State.respond_err (s : State) (a : Response) : (s.respond a).err = s.err := rfl
@[simp] theorem State.respond_errcode (s : State) (a : Response) : (s.respond a).errcode = s.errcode := rfl
@[simp] theorem State.respond_errinfo (s : State) (a : Response) : (s.respond a).errinfo = s.errinfo := rfl
@[simp] theorem State.respond_ie (s : State) (a : Response) : (s.respond a).ie = s.ie := rfl
@[simp] theorem State.respond_data (s : State) (a : Response) : (s.respond a).data = s.data := rfl
@[simp] theorem State.respond_busyLeft (s : State) (a : Response) : (s.respond a).busyLeft = s.busyLeft := rfl
@[simp] theorem State.respond_pace (s : State) (a : Response) : (s.respond a).pace = s.pace := rfl
@[simp] theorem State.respond_inputs (s : State) (a : Response) : (s.respond a).inputs = s.inputs := rfl
@[simp] theorem State.respond_responses (s : State) (a : Response) : (s.respond a).responses = s.responses ++ [a] := rfl
@[simp] theorem State.respond_resets (s : State) (a : Response) : (s.respond a).resets = s.resets := rfl
@[simp] theorem State.respond_engine (s : State) (a : Response) : (s.respond a).engine = s.engine := rfl

@[simp] theorem State.openSponge_lanes (s : State) (v : Variant) (r : BitVec 8) (p : PadRule) (n : BitVec 8) : (s.openSponge v r p n).lanes = Lanes.zero := rfl
@[simp] theorem State.openSponge_phase (s : State) (v : Variant) (r : BitVec 8) (p : PadRule) (n : BitVec 8) : (s.openSponge v r p n).phase = .absorb := rfl
@[simp] theorem State.openSponge_pos (s : State) (v : Variant) (r : BitVec 8) (p : PadRule) (n : BitVec 8) : (s.openSponge v r p n).pos = 0 := rfl
@[simp] theorem State.openSponge_outcnt (s : State) (v : Variant) (r : BitVec 8) (p : PadRule) (n : BitVec 8) : (s.openSponge v r p n).outcnt = 0 := rfl
@[simp] theorem State.openSponge_rate (s : State) (v : Variant) (r : BitVec 8) (p : PadRule) (n : BitVec 8) : (s.openSponge v r p n).rate = r := rfl
@[simp] theorem State.openSponge_pad (s : State) (v : Variant) (r : BitVec 8) (p : PadRule) (n : BitVec 8) : (s.openSponge v r p n).pad = p := rfl
@[simp] theorem State.openSponge_variant (s : State) (v : Variant) (r : BitVec 8) (p : PadRule) (n : BitVec 8) : (s.openSponge v r p n).variant = v := rfl
@[simp] theorem State.openSponge_outlen (s : State) (v : Variant) (r : BitVec 8) (p : PadRule) (n : BitVec 8) : (s.openSponge v r p n).outlen = n := rfl
@[simp] theorem State.openSponge_held (s : State) (v : Variant) (r : BitVec 8) (p : PadRule) (n : BitVec 8) : (s.openSponge v r p n).held = s.held := rfl
@[simp] theorem State.openSponge_done (s : State) (v : Variant) (r : BitVec 8) (p : PadRule) (n : BitVec 8) : (s.openSponge v r p n).done = s.done := rfl
@[simp] theorem State.openSponge_err (s : State) (v : Variant) (r : BitVec 8) (p : PadRule) (n : BitVec 8) : (s.openSponge v r p n).err = s.err := rfl
@[simp] theorem State.openSponge_errcode (s : State) (v : Variant) (r : BitVec 8) (p : PadRule) (n : BitVec 8) : (s.openSponge v r p n).errcode = s.errcode := rfl
@[simp] theorem State.openSponge_errinfo (s : State) (v : Variant) (r : BitVec 8) (p : PadRule) (n : BitVec 8) : (s.openSponge v r p n).errinfo = s.errinfo := rfl
@[simp] theorem State.openSponge_ie (s : State) (v : Variant) (r : BitVec 8) (p : PadRule) (n : BitVec 8) : (s.openSponge v r p n).ie = s.ie := rfl
@[simp] theorem State.openSponge_data (s : State) (v : Variant) (r : BitVec 8) (p : PadRule) (n : BitVec 8) : (s.openSponge v r p n).data = s.data := rfl
@[simp] theorem State.openSponge_busyLeft (s : State) (v : Variant) (r : BitVec 8) (p : PadRule) (n : BitVec 8) : (s.openSponge v r p n).busyLeft = s.busyLeft := rfl
@[simp] theorem State.openSponge_pace (s : State) (v : Variant) (r : BitVec 8) (p : PadRule) (n : BitVec 8) : (s.openSponge v r p n).pace = s.pace := rfl
@[simp] theorem State.openSponge_inputs (s : State) (v : Variant) (r : BitVec 8) (p : PadRule) (n : BitVec 8) : (s.openSponge v r p n).inputs = s.inputs := rfl
@[simp] theorem State.openSponge_responses (s : State) (v : Variant) (r : BitVec 8) (p : PadRule) (n : BitVec 8) : (s.openSponge v r p n).responses = s.responses := rfl
@[simp] theorem State.openSponge_resets (s : State) (v : Variant) (r : BitVec 8) (p : PadRule) (n : BitVec 8) : (s.openSponge v r p n).resets = s.resets := rfl
@[simp] theorem State.openSponge_engine (s : State) (v : Variant) (r : BitVec 8) (p : PadRule) (n : BitVec 8) : (s.openSponge v r p n).engine = s.engine := rfl

@[simp] theorem absorbBody_lanes (off len : Nat) (s : State) : (absorbBody off len s).lanes = (absorbBytes s.rate s.point (s.dataBytes off len)).lanes := rfl
@[simp] theorem absorbBody_phase (off len : Nat) (s : State) : (absorbBody off len s).phase = s.phase := rfl
@[simp] theorem absorbBody_pos (off len : Nat) (s : State) : (absorbBody off len s).pos = (absorbBytes s.rate s.point (s.dataBytes off len)).pos := rfl
@[simp] theorem absorbBody_outcnt (off len : Nat) (s : State) : (absorbBody off len s).outcnt = s.outcnt := rfl
@[simp] theorem absorbBody_rate (off len : Nat) (s : State) : (absorbBody off len s).rate = s.rate := rfl
@[simp] theorem absorbBody_pad (off len : Nat) (s : State) : (absorbBody off len s).pad = s.pad := rfl
@[simp] theorem absorbBody_variant (off len : Nat) (s : State) : (absorbBody off len s).variant = s.variant := rfl
@[simp] theorem absorbBody_outlen (off len : Nat) (s : State) : (absorbBody off len s).outlen = s.outlen := rfl
@[simp] theorem absorbBody_held (off len : Nat) (s : State) : (absorbBody off len s).held = s.held := rfl
@[simp] theorem absorbBody_done (off len : Nat) (s : State) : (absorbBody off len s).done = s.done := rfl
@[simp] theorem absorbBody_err (off len : Nat) (s : State) : (absorbBody off len s).err = s.err := rfl
@[simp] theorem absorbBody_errcode (off len : Nat) (s : State) : (absorbBody off len s).errcode = s.errcode := rfl
@[simp] theorem absorbBody_errinfo (off len : Nat) (s : State) : (absorbBody off len s).errinfo = s.errinfo := rfl
@[simp] theorem absorbBody_ie (off len : Nat) (s : State) : (absorbBody off len s).ie = s.ie := rfl
@[simp] theorem absorbBody_data (off len : Nat) (s : State) : (absorbBody off len s).data = s.data := rfl
@[simp] theorem absorbBody_busyLeft (off len : Nat) (s : State) : (absorbBody off len s).busyLeft = s.busyLeft := rfl
@[simp] theorem absorbBody_pace (off len : Nat) (s : State) : (absorbBody off len s).pace = s.pace := rfl
@[simp] theorem absorbBody_inputs (off len : Nat) (s : State) : (absorbBody off len s).inputs = s.inputs := rfl
@[simp] theorem absorbBody_responses (off len : Nat) (s : State) : (absorbBody off len s).responses = s.responses := rfl
@[simp] theorem absorbBody_resets (off len : Nat) (s : State) : (absorbBody off len s).resets = s.resets := rfl
@[simp] theorem absorbBody_engine (off len : Nat) (s : State) : (absorbBody off len s).engine = s.engine := rfl

@[simp] theorem finalBody_lanes (s : State) : (finalBody s).lanes = (padFinal s.rate s.pad.byte s.point).lanes := rfl
@[simp] theorem finalBody_phase (s : State) : (finalBody s).phase = .squeeze := rfl
@[simp] theorem finalBody_pos (s : State) : (finalBody s).pos = 0 := rfl
@[simp] theorem finalBody_outcnt (s : State) : (finalBody s).outcnt = 0 := rfl
@[simp] theorem finalBody_rate (s : State) : (finalBody s).rate = s.rate := rfl
@[simp] theorem finalBody_pad (s : State) : (finalBody s).pad = s.pad := rfl
@[simp] theorem finalBody_variant (s : State) : (finalBody s).variant = s.variant := rfl
@[simp] theorem finalBody_outlen (s : State) : (finalBody s).outlen = s.outlen := rfl
@[simp] theorem finalBody_held (s : State) : (finalBody s).held = s.held := rfl
@[simp] theorem finalBody_done (s : State) : (finalBody s).done = s.done := rfl
@[simp] theorem finalBody_err (s : State) : (finalBody s).err = s.err := rfl
@[simp] theorem finalBody_errcode (s : State) : (finalBody s).errcode = s.errcode := rfl
@[simp] theorem finalBody_errinfo (s : State) : (finalBody s).errinfo = s.errinfo := rfl
@[simp] theorem finalBody_ie (s : State) : (finalBody s).ie = s.ie := rfl
@[simp] theorem finalBody_data (s : State) : (finalBody s).data = s.data := rfl
@[simp] theorem finalBody_busyLeft (s : State) : (finalBody s).busyLeft = s.busyLeft := rfl
@[simp] theorem finalBody_pace (s : State) : (finalBody s).pace = s.pace := rfl
@[simp] theorem finalBody_inputs (s : State) : (finalBody s).inputs = s.inputs := rfl
@[simp] theorem finalBody_responses (s : State) : (finalBody s).responses = s.responses := rfl
@[simp] theorem finalBody_resets (s : State) : (finalBody s).resets = s.resets := rfl
@[simp] theorem finalBody_engine (s : State) : (finalBody s).engine = s.engine := rfl

@[simp] theorem squeezeBody_lanes (off len : Nat) (s : State) : (squeezeBody off len s).lanes = (squeezeBytes s.rate len s.point).2.lanes := rfl
@[simp] theorem squeezeBody_phase (off len : Nat) (s : State) : (squeezeBody off len s).phase = s.phase := rfl
@[simp] theorem squeezeBody_pos (off len : Nat) (s : State) : (squeezeBody off len s).pos = (squeezeBytes s.rate len s.point).2.pos := rfl
@[simp] theorem squeezeBody_outcnt (off len : Nat) (s : State) : (squeezeBody off len s).outcnt = s.outcnt + BitVec.ofNat 32 len := rfl
@[simp] theorem squeezeBody_rate (off len : Nat) (s : State) : (squeezeBody off len s).rate = s.rate := rfl
@[simp] theorem squeezeBody_pad (off len : Nat) (s : State) : (squeezeBody off len s).pad = s.pad := rfl
@[simp] theorem squeezeBody_variant (off len : Nat) (s : State) : (squeezeBody off len s).variant = s.variant := rfl
@[simp] theorem squeezeBody_outlen (off len : Nat) (s : State) : (squeezeBody off len s).outlen = s.outlen := rfl
@[simp] theorem squeezeBody_held (off len : Nat) (s : State) : (squeezeBody off len s).held = s.held := rfl
@[simp] theorem squeezeBody_done (off len : Nat) (s : State) : (squeezeBody off len s).done = s.done := rfl
@[simp] theorem squeezeBody_err (off len : Nat) (s : State) : (squeezeBody off len s).err = s.err := rfl
@[simp] theorem squeezeBody_errcode (off len : Nat) (s : State) : (squeezeBody off len s).errcode = s.errcode := rfl
@[simp] theorem squeezeBody_errinfo (off len : Nat) (s : State) : (squeezeBody off len s).errinfo = s.errinfo := rfl
@[simp] theorem squeezeBody_ie (off len : Nat) (s : State) : (squeezeBody off len s).ie = s.ie := rfl
@[simp] theorem squeezeBody_data (off len : Nat) (s : State) : (squeezeBody off len s).data = s.data.writeBytes off (squeezeBytes s.rate len s.point).1 := rfl
@[simp] theorem squeezeBody_busyLeft (off len : Nat) (s : State) : (squeezeBody off len s).busyLeft = s.busyLeft := rfl
@[simp] theorem squeezeBody_pace (off len : Nat) (s : State) : (squeezeBody off len s).pace = s.pace := rfl
@[simp] theorem squeezeBody_inputs (off len : Nat) (s : State) : (squeezeBody off len s).inputs = s.inputs := rfl
@[simp] theorem squeezeBody_responses (off len : Nat) (s : State) : (squeezeBody off len s).responses = s.responses := rfl
@[simp] theorem squeezeBody_resets (off len : Nat) (s : State) : (squeezeBody off len s).resets = s.resets := rfl
@[simp] theorem squeezeBody_engine (off len : Nat) (s : State) : (squeezeBody off len s).engine = s.engine := rfl

@[simp] theorem addressResult_lanes (raw : List Byte) (s : State) : (addressResult raw s).lanes = Lanes.zero := rfl
@[simp] theorem addressResult_phase (raw : List Byte) (s : State) : (addressResult raw s).phase = .idle := rfl
@[simp] theorem addressResult_pos (raw : List Byte) (s : State) : (addressResult raw s).pos = 0 := rfl
@[simp] theorem addressResult_outcnt (raw : List Byte) (s : State) : (addressResult raw s).outcnt = 0 := rfl
@[simp] theorem addressResult_rate (raw : List Byte) (s : State) : (addressResult raw s).rate = s.rate := rfl
@[simp] theorem addressResult_pad (raw : List Byte) (s : State) : (addressResult raw s).pad = s.pad := rfl
@[simp] theorem addressResult_variant (raw : List Byte) (s : State) : (addressResult raw s).variant = s.variant := rfl
@[simp] theorem addressResult_outlen (raw : List Byte) (s : State) : (addressResult raw s).outlen = s.outlen := rfl
@[simp] theorem addressResult_held (raw : List Byte) (s : State) : (addressResult raw s).held = s.held := rfl
@[simp] theorem addressResult_done (raw : List Byte) (s : State) : (addressResult raw s).done = s.done := rfl
@[simp] theorem addressResult_err (raw : List Byte) (s : State) : (addressResult raw s).err = s.err := rfl
@[simp] theorem addressResult_errcode (raw : List Byte) (s : State) : (addressResult raw s).errcode = s.errcode := rfl
@[simp] theorem addressResult_errinfo (raw : List Byte) (s : State) : (addressResult raw s).errinfo = s.errinfo := rfl
@[simp] theorem addressResult_ie (raw : List Byte) (s : State) : (addressResult raw s).ie = s.ie := rfl
@[simp] theorem addressResult_data (raw : List Byte) (s : State) : (addressResult raw s).data = (s.data.writeBytes 0xC0 raw).writeBytes 0xD4 (eip55Text raw) := by
  simp only [addressResult, State.toIdle]
@[simp] theorem addressResult_busyLeft (raw : List Byte) (s : State) : (addressResult raw s).busyLeft = s.busyLeft := rfl
@[simp] theorem addressResult_pace (raw : List Byte) (s : State) : (addressResult raw s).pace = s.pace := rfl
@[simp] theorem addressResult_inputs (raw : List Byte) (s : State) : (addressResult raw s).inputs = s.inputs := rfl
@[simp] theorem addressResult_responses (raw : List Byte) (s : State) : (addressResult raw s).responses = s.responses := rfl
@[simp] theorem addressResult_resets (raw : List Byte) (s : State) : (addressResult raw s).resets = s.resets := rfl
@[simp] theorem addressResult_engine (raw : List Byte) (s : State) : (addressResult raw s).engine = s.engine := rfl

@[simp] theorem State.withFetchWord_lanes (s : State) (nbits w : Nat) : (s.withFetchWord nbits w).lanes = s.lanes := rfl
@[simp] theorem State.withFetchWord_phase (s : State) (nbits w : Nat) : (s.withFetchWord nbits w).phase = s.phase := rfl
@[simp] theorem State.withFetchWord_pos (s : State) (nbits w : Nat) : (s.withFetchWord nbits w).pos = s.pos := rfl
@[simp] theorem State.withFetchWord_outcnt (s : State) (nbits w : Nat) : (s.withFetchWord nbits w).outcnt = s.outcnt := rfl
@[simp] theorem State.withFetchWord_rate (s : State) (nbits w : Nat) : (s.withFetchWord nbits w).rate = s.rate := rfl
@[simp] theorem State.withFetchWord_pad (s : State) (nbits w : Nat) : (s.withFetchWord nbits w).pad = s.pad := rfl
@[simp] theorem State.withFetchWord_variant (s : State) (nbits w : Nat) : (s.withFetchWord nbits w).variant = s.variant := rfl
@[simp] theorem State.withFetchWord_outlen (s : State) (nbits w : Nat) : (s.withFetchWord nbits w).outlen = s.outlen := rfl
@[simp] theorem State.withFetchWord_held (s : State) (nbits w : Nat) : (s.withFetchWord nbits w).held = some (wordOfTable nbits w) := rfl
@[simp] theorem State.withFetchWord_done (s : State) (nbits w : Nat) : (s.withFetchWord nbits w).done = false := rfl
@[simp] theorem State.withFetchWord_err (s : State) (nbits w : Nat) : (s.withFetchWord nbits w).err = s.err := rfl
@[simp] theorem State.withFetchWord_errcode (s : State) (nbits w : Nat) : (s.withFetchWord nbits w).errcode = s.errcode := rfl
@[simp] theorem State.withFetchWord_errinfo (s : State) (nbits w : Nat) : (s.withFetchWord nbits w).errinfo = s.errinfo := rfl
@[simp] theorem State.withFetchWord_ie (s : State) (nbits w : Nat) : (s.withFetchWord nbits w).ie = s.ie := rfl
@[simp] theorem State.withFetchWord_data (s : State) (nbits w : Nat) : (s.withFetchWord nbits w).data = s.data := rfl
@[simp] theorem State.withFetchWord_busyLeft (s : State) (nbits w : Nat) : (s.withFetchWord nbits w).busyLeft = 0 := rfl
@[simp] theorem State.withFetchWord_pace (s : State) (nbits w : Nat) : (s.withFetchWord nbits w).pace = s.pace := rfl
@[simp] theorem State.withFetchWord_inputs (s : State) (nbits w : Nat) : (s.withFetchWord nbits w).inputs =
    s.inputs.filter fun x => decide (x ≠ .reset) := rfl
@[simp] theorem State.withFetchWord_responses (s : State) (nbits w : Nat) : (s.withFetchWord nbits w).responses = s.responses := rfl
@[simp] theorem State.withFetchWord_resets (s : State) (nbits w : Nat) : (s.withFetchWord nbits w).resets = s.resets := rfl
@[simp] theorem State.withFetchWord_engine (s : State) (nbits w : Nat) : (s.withFetchWord nbits w).engine = s.engine := rfl

@[simp] theorem State.succeeded_lanes (s : State) : (s.succeeded).lanes = s.lanes := rfl
@[simp] theorem State.succeeded_phase (s : State) : (s.succeeded).phase = s.phase := rfl
@[simp] theorem State.succeeded_pos (s : State) : (s.succeeded).pos = s.pos := rfl
@[simp] theorem State.succeeded_outcnt (s : State) : (s.succeeded).outcnt = s.outcnt := rfl
@[simp] theorem State.succeeded_rate (s : State) : (s.succeeded).rate = s.rate := rfl
@[simp] theorem State.succeeded_pad (s : State) : (s.succeeded).pad = s.pad := rfl
@[simp] theorem State.succeeded_variant (s : State) : (s.succeeded).variant = s.variant := rfl
@[simp] theorem State.succeeded_outlen (s : State) : (s.succeeded).outlen = s.outlen := rfl
@[simp] theorem State.succeeded_held (s : State) : (s.succeeded).held = none := rfl
@[simp] theorem State.succeeded_done (s : State) : (s.succeeded).done = true := rfl
@[simp] theorem State.succeeded_err (s : State) : (s.succeeded).err = s.err := rfl
@[simp] theorem State.succeeded_errcode (s : State) : (s.succeeded).errcode = .ok := rfl
@[simp] theorem State.succeeded_errinfo (s : State) : (s.succeeded).errinfo = s.errinfo := rfl
@[simp] theorem State.succeeded_ie (s : State) : (s.succeeded).ie = s.ie := rfl
@[simp] theorem State.succeeded_data (s : State) : (s.succeeded).data = s.data := rfl
@[simp] theorem State.succeeded_busyLeft (s : State) : (s.succeeded).busyLeft = s.busyLeft := rfl
@[simp] theorem State.succeeded_pace (s : State) : (s.succeeded).pace = s.pace := rfl
@[simp] theorem State.succeeded_inputs (s : State) : (s.succeeded).inputs = s.inputs := rfl
@[simp] theorem State.succeeded_responses (s : State) : (s.succeeded).responses = s.responses := rfl
@[simp] theorem State.succeeded_resets (s : State) : (s.succeeded).resets = s.resets := rfl
@[simp] theorem State.succeeded_engine (s : State) : (s.succeeded).engine = s.engine := rfl

@[simp] theorem State.failed_lanes (s : State) (w : Word) (code : ErrorCode) : (s.failed w code).lanes = s.lanes := rfl
@[simp] theorem State.failed_phase (s : State) (w : Word) (code : ErrorCode) : (s.failed w code).phase = s.phase := rfl
@[simp] theorem State.failed_pos (s : State) (w : Word) (code : ErrorCode) : (s.failed w code).pos = s.pos := rfl
@[simp] theorem State.failed_outcnt (s : State) (w : Word) (code : ErrorCode) : (s.failed w code).outcnt = s.outcnt := rfl
@[simp] theorem State.failed_rate (s : State) (w : Word) (code : ErrorCode) : (s.failed w code).rate = s.rate := rfl
@[simp] theorem State.failed_pad (s : State) (w : Word) (code : ErrorCode) : (s.failed w code).pad = s.pad := rfl
@[simp] theorem State.failed_variant (s : State) (w : Word) (code : ErrorCode) : (s.failed w code).variant = s.variant := rfl
@[simp] theorem State.failed_outlen (s : State) (w : Word) (code : ErrorCode) : (s.failed w code).outlen = s.outlen := rfl
@[simp] theorem State.failed_held (s : State) (w : Word) (code : ErrorCode) : (s.failed w code).held = none := rfl
@[simp] theorem State.failed_done (s : State) (w : Word) (code : ErrorCode) : (s.failed w code).done = true := rfl
@[simp] theorem State.failed_err (s : State) (w : Word) (code : ErrorCode) : (s.failed w code).err = true := rfl
@[simp] theorem State.failed_errcode (s : State) (w : Word) (code : ErrorCode) : (s.failed w code).errcode = code := rfl
@[simp] theorem State.failed_errinfo (s : State) (w : Word) (code : ErrorCode) : (s.failed w code).errinfo = w := rfl
@[simp] theorem State.failed_ie (s : State) (w : Word) (code : ErrorCode) : (s.failed w code).ie = s.ie := rfl
@[simp] theorem State.failed_data (s : State) (w : Word) (code : ErrorCode) : (s.failed w code).data = s.data := rfl
@[simp] theorem State.failed_busyLeft (s : State) (w : Word) (code : ErrorCode) : (s.failed w code).busyLeft = s.busyLeft := rfl
@[simp] theorem State.failed_pace (s : State) (w : Word) (code : ErrorCode) : (s.failed w code).pace = s.pace := rfl
@[simp] theorem State.failed_inputs (s : State) (w : Word) (code : ErrorCode) : (s.failed w code).inputs = s.inputs := rfl
@[simp] theorem State.failed_responses (s : State) (w : Word) (code : ErrorCode) : (s.failed w code).responses = s.responses := rfl
@[simp] theorem State.failed_resets (s : State) (w : Word) (code : ErrorCode) : (s.failed w code).resets = s.resets := rfl
@[simp] theorem State.failed_engine (s : State) (w : Word) (code : ErrorCode) : (s.failed w code).engine = s.engine := rfl

@[simp] theorem State.dataRead_complete (s : State) (w : Word) (code : ErrorCode) (k : Nat) : (s.complete w code).dataRead k = s.dataRead k := rfl
@[simp] theorem State.dataRead_succeeded (s : State) (k : Nat) : (s.succeeded).dataRead k = s.dataRead k := rfl
@[simp] theorem State.dataRead_failed (s : State) (w : Word) (code : ErrorCode) (k : Nat) : (s.failed w code).dataRead k = s.dataRead k := rfl
@[simp] theorem State.dataRead_keccakF (s : State) (k : Nat) : (s.keccakF).dataRead k = s.dataRead k := rfl
@[simp] theorem State.dataRead_toIdle (s : State) (k : Nat) : (s.toIdle).dataRead k = s.dataRead k := rfl
@[simp] theorem State.dataRead_openSponge (s : State) (v : Variant) (r : BitVec 8) (p : PadRule) (n : BitVec 8) (k : Nat) : (s.openSponge v r p n).dataRead k = s.dataRead k := rfl
@[simp] theorem State.dataRead_absorbBody (off len : Nat) (s : State) (k : Nat) : (absorbBody off len s).dataRead k = s.dataRead k := rfl
@[simp] theorem State.dataRead_finalBody (s : State) (k : Nat) : (finalBody s).dataRead k = s.dataRead k := rfl

/-- The completion update without an error is the one the claims speak of (R249). -/
theorem State.complete_ok (s : State) (w : Word) : s.complete w .ok = s.succeeded := by
  simp [State.complete, State.succeeded]

/-- The completion update with an error is the one the claims speak of (R249, R250). -/
theorem State.complete_error (s : State) (w : Word) {code : ErrorCode} (h : code ≠ .ok) : s.complete w code = s.failed w code := by
  simp [State.complete, State.failed, h]

/-- A command word for the next step makes the engine busy. -/
@[simp] theorem State.withFetchWord_busy (s : State) (nbits w : Nat) : (s.withFetchWord nbits w).busy = true := rfl

/-- Reading a DATA byte looks at the written bytes, the number of the reset and the engine only. -/
theorem State.dataRead_congr {s t : State} (hd : t.data = s.data) (hr : t.resets = s.resets) (he : t.engine = s.engine) (k : Nat) :
    t.dataRead k = s.dataRead k := by
  simp [State.dataRead, hd, hr, he]

theorem State.dataBytes_congr {s t : State} (hd : t.data = s.data) (hr : t.resets = s.resets) (he : t.engine = s.engine) (off len : Nat) :
    t.dataBytes off len = s.dataBytes off len := by
  simp [State.dataBytes, State.dataRead_congr hd hr he]

end Sys2Proof.Machine
end

