-- ==== Sys2Proof/Laws/Bus.lean ====
section
/-! SUPPORT. What a host access can do to each part of the state (10_state.md R40 to R50, 20_memory.md R74 to R79). -/

namespace Sys2Proof.Machine

/-- Everything a byte write can do (R50, R78, R79). -/
theorem State.writeByte_cases (s : State) (offset : Nat) (b : Byte) :
    (0x100 ≤ offset ∧ offset < 0x1C8 ∧ s.phase = .idle ∧ s.writeByte offset b = { s with lanes := s.lanes.setByte (offset - 0x100) b }) ∨
    (0x200 ≤ offset ∧ offset < 0x300 ∧ s.writeByte offset b = { s with data := s.data.write (offset - 0x200) b }) ∨
    s.writeByte offset b = s := by
  unfold State.writeByte
  split
  · rename_i h
    split
    · rename_i hp; exact .inl ⟨h.1, h.2, hp, rfl⟩
    · exact .inr (.inr rfl)
  · split
    · rename_i h; exact .inr (.inl ⟨h.1, h.2, rfl⟩)
    · exact .inr (.inr rfl)

/-- The fields a window write never touches. -/
structure WindowFrame (s t : State) : Prop where
  phase : t.phase = s.phase
  pos : t.pos = s.pos
  outcnt : t.outcnt = s.outcnt
  rate : t.rate = s.rate
  pad : t.pad = s.pad
  variant : t.variant = s.variant
  outlen : t.outlen = s.outlen
  held : t.held = s.held
  done : t.done = s.done
  err : t.err = s.err
  errcode : t.errcode = s.errcode
  errinfo : t.errinfo = s.errinfo
  ie : t.ie = s.ie
  busyLeft : t.busyLeft = s.busyLeft
  pace : t.pace = s.pace
  inputs : t.inputs = s.inputs
  responses : t.responses = s.responses
  resets : t.resets = s.resets
  engine : t.engine = s.engine
  lanes : s.phase ≠ .idle → t.lanes = s.lanes
  canonical : s.data.wf = true → t.data.wf = true

theorem State.writeByte_frame (s : State) (offset : Nat) (b : Byte) : WindowFrame s (s.writeByte offset b) := by
  rcases s.writeByte_cases offset b with ⟨_, _, hp, h⟩ | ⟨_, _, h⟩ | h <;> rw [h]
  · constructor <;> first | rfl | exact fun hn => absurd hp hn | exact id
  · constructor <;> first | rfl | exact fun _ => rfl | exact fun hw => Memory.wf_write hw (by omega) b
  · constructor <;> first | rfl | exact fun _ => rfl | exact id

/-- A window write of any size touches only lanes (in IDLE) and DATA. -/
theorem State.writeBytes_frame (size : Nat) (s : State) (offset v : Nat) : WindowFrame s (s.writeBytes offset v size) := by
  induction size generalizing s offset v with
  | zero => constructor <;> first | rfl | exact fun _ => rfl | exact id
  | succ n ih =>
    have h1 := s.writeByte_frame offset (BitVec.ofNat 8 v)
    have h2 := ih (s.writeByte offset (BitVec.ofNat 8 v)) (offset + 1) (v / 2 ^ 8)
    simp only [State.writeBytes]
    constructor
    case lanes => exact fun hn => (h2.lanes (by rw [h1.phase]; exact hn)).trans (h1.lanes hn)
    case canonical => exact fun hw => h2.canonical (h1.canonical hw)
    all_goals first
      | exact h2.phase.trans h1.phase | exact h2.pos.trans h1.pos | exact h2.outcnt.trans h1.outcnt | exact h2.rate.trans h1.rate
      | exact h2.pad.trans h1.pad | exact h2.variant.trans h1.variant | exact h2.outlen.trans h1.outlen | exact h2.held.trans h1.held
      | exact h2.done.trans h1.done | exact h2.err.trans h1.err | exact h2.errcode.trans h1.errcode | exact h2.errinfo.trans h1.errinfo
      | exact h2.ie.trans h1.ie | exact h2.busyLeft.trans h1.busyLeft | exact h2.pace.trans h1.pace | exact h2.inputs.trans h1.inputs
      | exact h2.responses.trans h1.responses | exact h2.resets.trans h1.resets
      | exact h2.engine.trans h1.engine

/-- A write inside the DATA window replaces the DATA memory and nothing else (R77, R79). -/
theorem State.writeBytes_inData (size : Nat) (s : State) (offset v : Nat) (hl : 0x200 ≤ offset) (hu : offset + size ≤ 0x300) :
    ∃ m : Memory, s.writeBytes offset v size = { s with data := m } := by
  induction size generalizing s offset v with
  | zero => exact ⟨s.data, rfl⟩
  | succ n ih =>
    have h : s.writeByte offset (BitVec.ofNat 8 v) = { s with data := s.data.write (offset - 0x200) (BitVec.ofNat 8 v) } := by
      unfold State.writeByte
      rw [if_neg (by omega), if_pos (by omega)]
    obtain ⟨m, hm⟩ := ih (s.writeByte offset (BitVec.ofNat 8 v)) (offset + 1) (v / 2 ^ 8) (by omega) (by omega)
    exact ⟨m, by rw [State.writeBytes, hm, h]⟩

/-- Everything a register write can do (R40 to R42, R50). -/
theorem State.writeRegister_cases (s : State) (offset : Nat) (v : Word) :
    (offset = 0x008 ∧ s.writeRegister offset v = { s with ie := v.getLsbD 0 }) ∨
    (offset = 0x00C ∧ s.writeRegister offset v = s.writeStatus v) ∨
    (offset = 0x010 ∧ s.writeRegister offset v = s.accept v) ∨
    s.writeRegister offset v = s := by
  unfold State.writeRegister
  split
  · exact .inl ⟨‹_›, rfl⟩
  · split
    · exact .inr (.inl ⟨‹_›, rfl⟩)
    · split
      · exact .inr (.inr (.inl ⟨‹_›, rfl⟩))
      · exact .inr (.inr (.inr rfl))

/-- Everything performing an access can do: only the answer; or a register write, or a window write, and its answer. -/
theorem State.perform_cases (s : State) (r : Request) :
    (∃ a, s.perform r = s.respond a ∧ ((r.legal = false ∧ a = ⟨r.agent, true, 0⟩) ∨ (r.legal = true ∧ r.op = .read))) ∨
    (∃ v, r.legal = true ∧ r.op = .write v ∧ r.offset.toNat < 0x100 ∧
      s.perform r = (s.writeRegister r.offset.toNat v).respond ⟨r.agent, false, 0⟩) ∨
    (∃ v, r.legal = true ∧ r.op = .write v ∧ 0x100 ≤ r.offset.toNat ∧
      s.perform r = (s.writeBytes r.offset.toNat v.toNat r.size).respond ⟨r.agent, false, 0⟩) := by
  unfold State.perform
  cases hl : r.legal with
  | false => exact .inl ⟨_, by simp, .inl ⟨rfl, rfl⟩⟩
  | true =>
    cases ho : r.op with
    | read => exact .inl ⟨⟨r.agent, false, s.busRead r.offset.toNat r.size⟩, by simp, .inr ⟨rfl, rfl⟩⟩
    | write v =>
      unfold State.busWrite
      by_cases h : r.offset.toNat < 0x100
      · exact .inr (.inl ⟨v, rfl, rfl, h, by simp [h]⟩)
      · exact .inr (.inr ⟨v, rfl, rfl, by omega, by simp [h]⟩)

/-- An access performed while BUSY is STATUS's or a bus error (R84): it can clear DONE and ERR and nothing else. -/
theorem State.perform_unheld (s : State) (r : Request) (h : r.held = false) :
    ∃ d e a, s.perform r = { s with done := s.done && d, err := s.err && e, responses := s.responses ++ [a] } := by
  rcases s.perform_cases r with ⟨a, hp, _⟩ | ⟨v, hl, _, _, hp⟩ | ⟨v, hl, _, ho, _⟩
  · exact ⟨true, true, a, by rw [hp]; simp [State.respond]⟩
  · have ht : r.toStatus = true := by simpa [Request.held, hl] using h
    have h3 : r.offset = 0x00C := by simp [Request.toStatus] at ht; exact ht.2
    rcases s.writeRegister_cases r.offset.toNat v with ⟨h4, _⟩ | ⟨_, hw⟩ | ⟨h4, _⟩ | hw
    · rw [h3] at h4; exact absurd h4 (by decide)
    · exact ⟨!v.getLsbD 1, !v.getLsbD 2, ⟨r.agent, false, 0⟩, by rw [hp, hw]; simp [State.respond, State.writeStatus]⟩
    · rw [h3] at h4; exact absurd h4 (by decide)
    · exact ⟨true, true, ⟨r.agent, false, 0⟩, by rw [hp, hw]; simp [State.respond]⟩
  · have ht : r.toStatus = true := by simpa [Request.held, hl] using h
    have h3 : r.offset = 0x00C := by simp [Request.toStatus] at ht; exact ht.2
    rw [h3] at ho; exact absurd ho (by decide)

end Sys2Proof.Machine
end

