-- ==== Sys2Proof/Laws/Command.lean ====
section
/-! SUPPORT. Everything the command template can do, said once (60_exceptions.md R246, R249, R250). -/

namespace Sys2Proof.Machine

/-- A command fails with the first check that fails and nothing else, or does its pseudocode and completes with OK. -/
theorem State.command_cases (s : State) (w : Word) (checks : List (Bool × ErrorCode)) (body : State → State) :
    (∃ code, firstFailure checks = some code ∧ s.command w checks body = s.complete w code) ∨
    (firstFailure checks = none ∧ s.command w checks body = (body s).complete w .ok) := by
  unfold State.command
  cases h : firstFailure checks with
  | none => exact .inr ⟨rfl, rfl⟩
  | some code => exact .inl ⟨code, rfl, rfl⟩

theorem State.command_of_pass {checks : List (Bool × ErrorCode)} (h : firstFailure checks = none) (s : State) (w : Word)
    (body : State → State) : s.command w checks body = (body s).complete w .ok := by
  simp [State.command, h]

theorem State.command_of_fail {checks : List (Bool × ErrorCode)} {code : ErrorCode} (h : firstFailure checks = some code) (s : State)
    (w : Word) (body : State → State) : s.command w checks body = s.complete w code := by
  simp [State.command, h]

/-- A check list never fails with OK when none of its codes is OK. -/
theorem firstFailure_mem {checks : List (Bool × ErrorCode)} {code : ErrorCode} (h : firstFailure checks = some code) :
    (true, code) ∈ checks := by
  induction checks with
  | nil => simp [firstFailure] at h
  | cons c cs ih =>
    obtain ⟨fails, d⟩ := c
    unfold firstFailure at h
    cases fails with
    | true => simp at h; simp [h]
    | false => simp at h; exact List.mem_cons_of_mem _ (ih h)

@[simp] theorem firstFailure_nil : firstFailure [] = none := rfl

@[simp] theorem firstFailure_cons (fails : Bool) (code : ErrorCode) (rest : List (Bool × ErrorCode)) :
    firstFailure ((fails, code) :: rest) = if fails then some code else firstFailure rest := rfl

/-- Every command answers a next state (R240). -/
theorem exec_next (i : Instr) (s : State) : ∃ t, exec i s = .next t := by
  cases i <;> exact ⟨_, rfl⟩

/-- What no pseudocode touches: the completion fields, CTRL, the bus and the model's clock. -/
structure BodyFrame (s t : State) : Prop where
  held : t.held = s.held
  done : t.done = s.done
  err : t.err = s.err
  errcode : t.errcode = s.errcode
  errinfo : t.errinfo = s.errinfo
  ie : t.ie = s.ie
  busyLeft : t.busyLeft = s.busyLeft
  pace : t.pace = s.pace
  inputs : t.inputs = s.inputs
  responses : t.responses = s.responses
  resets : t.resets = s.resets
  engine : t.engine = s.engine

/-- What a command's checks and pseudocode are: `exec i s` is always the template over these. -/
theorem exec_template (i : Instr) (s : State) : ∃ checks body, (∀ c ∈ checks, c.2 ≠ .ok) ∧ BodyFrame s (body s) ∧
    exec i s = .next (s.command (encode i) checks body) := by
  cases i <;> refine ⟨_, _, ?_, ?_, rfl⟩ <;> first | (simp; done) | (constructor <;> rfl)

/-- The code of a command is that of its first failing check (R246). -/
theorem State.errcode_command (s : State) (w : Word) (checks : List (Bool × ErrorCode)) (body : State → State) :
    (s.command w checks body).errcode = (firstFailure checks).getD .ok := by
  unfold State.command
  cases firstFailure checks <;> rfl

/-- R249, R250 for every command: an error changes the completion fields only; success is the pseudocode and the completion update. -/
theorem exec_cases {i : Instr} {s t : State} (h : exec i s = .next t) :
    (t.errcode ≠ .ok ∧ t = s.failed (encode i) t.errcode) ∨ (t.errcode = .ok ∧ ∃ u, BodyFrame s u ∧ t = u.succeeded) := by
  obtain ⟨checks, body, hok, hf, he⟩ := exec_template i s
  rw [he] at h
  cases h
  rcases s.command_cases (encode i) checks body with ⟨code, hc, h⟩ | ⟨_, h⟩
  · have hne := hok _ (firstFailure_mem hc)
    rw [h, State.complete_error _ _ hne]
    exact .inl ⟨hne, rfl⟩
  · rw [h, State.complete_ok]
    exact .inr ⟨rfl, _, hf, rfl⟩

@[simp] theorem State.outside_single (s : State) (p : Phase) : s.outside [p] = decide (s.phase ≠ p) := by
  cases h : s.phase <;> cases p <;> simp [State.outside, h]

end Sys2Proof.Machine
end

