-- ==== Sys2Proof/Laws/Decode.lean ====
section
/-! SUPPORT. What the fields of a word are, and everything each format's decoder can answer (30_encoding.md R102 to R106). -/

namespace Sys2Proof

theorem field_ofNat (n lo k : Nat) (h : n < 2 ^ 32) : field (BitVec.ofNat 32 n) lo k = n / 2 ^ lo % 2 ^ k := by
  rw [field, BitVec.toNat_ofNat, Nat.mod_eq_of_lt h]

/-- A field is the slice of bits the spec writes as w[hi:lo] (R11). -/
theorem toNat_extractLsb'_eq_field (w : Word) (lo n : Nat) : (w.extractLsb' lo n).toNat = field w lo n := by
  simp [field, Nat.shiftRight_eq_div_pow]

theorem decodeN_ok {i j : Instr} {w : Word} (h : decodeN j w = .ok i) : i = j ∧ w.toNat / 2 ^ 8 = 0 := by
  have hw := w.isLt
  unfold decodeN at h
  split at h
  · cases h
  · rename_i hr
    cases h
    simp only [field] at hr
    exact ⟨rfl, by omega⟩

theorem decodeM_ok {f : Nat → Nat → Instr} {w : Word} {i : Instr} (h : decodeM f w = .ok i) :
    ∃ off len, fitsM off len = true ∧ i = f off len ∧ w.toNat / 2 ^ 8 = off + len * 2 ^ 8 := by
  have hw := w.isLt
  unfold decodeM at h
  split at h
  · cases h
  · rename_i hr
    cases h
    simp only [field] at hr
    refine ⟨field w 8 8, field w 16 9, ?_, rfl, ?_⟩
    · simp only [fitsM, Bool.and_eq_true, decide_eq_true_eq]
      exact ⟨Nat.mod_lt _ (by decide), Nat.mod_lt _ (by decide)⟩
    · simp only [field]; omega

theorem decodeI_ok {w : Word} {i : Instr} (h : decodeI w = .ok i) :
    (∃ rate pad, fitsI rate pad = true ∧ i = .init rate pad ∧ w.toNat / 2 ^ 8 = pad * 2 ^ 4 + rate * 2 ^ 8) ∨
    (∃ c, c ≠ 0 ∧ c < 8 ∧ i = presetOf c ∧ w.toNat / 2 ^ 8 = c) := by
  have hw := w.isLt
  unfold decodeI at h
  split at h
  · cases h
  · rename_i hr
    simp only [field] at hr
    split at h
    · rename_i hv
      cases h
      simp only [field] at hv
      refine .inl ⟨field w 16 8, field w 12 2, ?_, rfl, ?_⟩
      · simp only [fitsI, Bool.and_eq_true, decide_eq_true_eq]
        exact ⟨Nat.mod_lt _ (by decide), Nat.mod_lt _ (by decide)⟩
      · simp only [field]; omega
    · rename_i hv
      split at h
      · cases h
      · rename_i hp
        cases h
        simp only [field] at hp
        refine .inr ⟨field w 8 3, hv, Nat.mod_lt _ (by decide), rfl, ?_⟩
        simp only [field] at hv ⊢; omega

/-- The word of each preset (R104). -/
theorem encode_presetOf (c : Nat) (h : c ≠ 0) (h8 : c < 8) :
    (presetOf c).wellFormed = true ∧ encode (presetOf c) = BitVec.ofNat 32 (2 + c * 2 ^ 8) := by
  have : c = 1 ∨ c = 2 ∨ c = 3 ∨ c = 4 ∨ c = 5 ∨ c = 6 ∨ c = 7 := by omega
  rcases this with h | h | h | h | h | h | h <;> subst h <;> decide

end Sys2Proof
end

