-- ==== Sys2Proof/Laws/PerInstr.lean ====
section
/-! SUPPORT. The statements made per command, one lemma per constructor of Instr. -/

namespace Sys2Proof.Laws.OpcodeByte

/-- The opcode of each row (30_encoding.md R104). -/
def opcode : Instr → Nat
  | .nop => 0x00
  | .clear => 0x01
  | .init _ _ => 0x02
  | .initSha3_224 => 0x02
  | .initSha3_256 => 0x02
  | .initSha3_384 => 0x02
  | .initSha3_512 => 0x02
  | .initShake128 => 0x02
  | .initShake256 => 0x02
  | .initKeccak256 => 0x02
  | .absorb _ _ => 0x03
  | .final => 0x04
  | .squeeze _ _ => 0x05
  | .permute => 0x06
  | .ethaddr _ _ => 0x07
  | .eip55 _ _ => 0x08

/-- The word of a well-formed command has its row's opcode in bits 7:0, and zero in bits 31:25, which no format uses (R101, R102). -/
def Statement (i : Instr) : Prop := i.wellFormed = true → field (encode i) 0 8 = opcode i ∧ field (encode i) 25 7 = 0

theorem nop : Statement .nop := fun _ => by decide
theorem clear : Statement .clear := fun _ => by decide
theorem initSha3_224 : Statement .initSha3_224 := fun _ => by decide
theorem initSha3_256 : Statement .initSha3_256 := fun _ => by decide
theorem initSha3_384 : Statement .initSha3_384 := fun _ => by decide
theorem initSha3_512 : Statement .initSha3_512 := fun _ => by decide
theorem initShake128 : Statement .initShake128 := fun _ => by decide
theorem initShake256 : Statement .initShake256 := fun _ => by decide
theorem initKeccak256 : Statement .initKeccak256 := fun _ => by decide
theorem final : Statement .final := fun _ => by decide
theorem permute : Statement .permute := fun _ => by decide

theorem init (rate pad : Nat) : Statement (.init rate pad) := by
  intro h
  simp only [Instr.wellFormed, fitsI, Bool.and_eq_true, decide_eq_true_eq] at h
  simp only [encode, encodeI, opcode]
  rw [field_ofNat _ _ _ (by omega), field_ofNat _ _ _ (by omega)]
  omega

/-- A Format M word (R102). -/
theorem formatM {opc off len : Nat} (hopc : opc < 256) (h : fitsM off len = true) :
    field (encodeM opc off len) 0 8 = opc ∧ field (encodeM opc off len) 25 7 = 0 := by
  simp only [fitsM, Bool.and_eq_true, decide_eq_true_eq] at h
  simp only [encodeM]
  rw [field_ofNat _ _ _ (by omega), field_ofNat _ _ _ (by omega)]
  omega

theorem absorb (off len : Nat) : Statement (.absorb off len) := formatM (by decide)
theorem squeeze (off len : Nat) : Statement (.squeeze off len) := formatM (by decide)
theorem ethaddr (off len : Nat) : Statement (.ethaddr off len) := formatM (by decide)
theorem eip55 (off len : Nat) : Statement (.eip55 off len) := formatM (by decide)

end Sys2Proof.Laws.OpcodeByte
end

