-- ==== Sys2Proof/Laws/Sponge.lean ====
section
/-! SUPPORT. Absorbing and squeezing in pieces (41_sponge.md R176, R178, R179), and the bounds of POS (R36). -/

namespace Sys2Proof.Machine

@[simp] theorem absorbBytes_nil (rate : BitVec 8) (p : SpongePoint) : absorbBytes rate p [] = p := rfl

@[simp] theorem absorbBytes_cons (rate : BitVec 8) (p : SpongePoint) (b : Byte) (bs : List Byte) :
    absorbBytes rate p (b :: bs) = absorbBytes rate (absorbByte rate p b) bs := rfl

/-- How a message is cut between ABSORB commands makes no difference. -/
theorem absorbBytes_append (rate : BitVec 8) (p : SpongePoint) (bs cs : List Byte) :
    absorbBytes rate p (bs ++ cs) = absorbBytes rate (absorbBytes rate p bs) cs := List.foldl_append

@[simp] theorem length_squeezeBytes (rate : BitVec 8) (n : Nat) (p : SpongePoint) : (squeezeBytes rate n p).1.length = n := by
  induction n generalizing p with
  | zero => rfl
  | succ n ih => simp [squeezeBytes, ih]

/-- How the output is cut between SQUEEZE commands makes no difference: the bytes. -/
theorem squeezeBytes_add (rate : BitVec 8) (m n : Nat) (p : SpongePoint) :
    squeezeBytes rate (m + n) p =
      ((squeezeBytes rate m p).1 ++ (squeezeBytes rate n (squeezeBytes rate m p).2).1, (squeezeBytes rate n (squeezeBytes rate m p).2).2) := by
  induction m generalizing p with
  | zero => simp [squeezeBytes]
  | succ m ih =>
    rw [show m + 1 + n = (m + n) + 1 by omega]
    simp only [squeezeBytes, ih, List.cons_append]

/-- The last of `n + 1` bytes comes after the first `n`, from a fresh block if theirs was used up (R178). -/
theorem squeezeBytes_last (rate : BitVec 8) (n : Nat) (p : SpongePoint) :
    squeezeBytes rate (n + 1) p =
      ((squeezeBytes rate n p).1 ++
          [(freshBlock rate (squeezeBytes rate n p).2).lanes.byte (freshBlock rate (squeezeBytes rate n p).2).pos.toNat],
        ⟨(freshBlock rate (squeezeBytes rate n p).2).lanes, (freshBlock rate (squeezeBytes rate n p).2).pos + 1⟩) := by
  rw [squeezeBytes_add]; rfl

theorem absorbByte_pos (rate : BitVec 8) (p : SpongePoint) (b : Byte) (h1 : 1 ≤ rate.toNat) (h : p.pos.toNat < rate.toNat) :
    (absorbByte rate p b).pos.toNat < rate.toNat := by
  unfold absorbByte
  split
  · simp; omega
  · rename_i hne
    have hlt := rate.isLt
    have hp : (p.pos + 1).toNat = p.pos.toNat + 1 := by
      rw [BitVec.toNat_add]; simp; omega
    have : (p.pos + 1).toNat ≠ rate.toNat := fun he => hne (BitVec.eq_of_toNat_eq he)
    simp only [hp] at this ⊢
    omega

/-- R36: POS stays in [0, RATE-1] while absorbing. -/
theorem absorbBytes_pos (rate : BitVec 8) (bs : List Byte) (p : SpongePoint) (h1 : 1 ≤ rate.toNat) (h : p.pos.toNat < rate.toNat) :
    (absorbBytes rate p bs).pos.toNat < rate.toNat := by
  induction bs generalizing p with
  | nil => exact h
  | cons b bs ih => exact ih _ (absorbByte_pos rate p b h1 h)

theorem freshBlock_pos (rate : BitVec 8) (p : SpongePoint) (h1 : 1 ≤ rate.toNat) (h : p.pos.toNat ≤ rate.toNat) :
    (freshBlock rate p).pos.toNat < rate.toNat := by
  unfold freshBlock
  split
  · simp; omega
  · rename_i hne
    have : p.pos.toNat ≠ rate.toNat := fun he => hne (BitVec.eq_of_toNat_eq he)
    omega

/-- R36: POS stays in [0, RATE] while squeezing. -/
theorem squeezeBytes_pos (rate : BitVec 8) (n : Nat) (p : SpongePoint) (h1 : 1 ≤ rate.toNat) (h : p.pos.toNat ≤ rate.toNat) :
    (squeezeBytes rate n p).2.pos.toNat ≤ rate.toNat := by
  induction n generalizing p with
  | zero => exact h
  | succ n ih =>
    have hq := freshBlock_pos rate p h1 h
    have hlt := rate.isLt
    refine ih _ ?_
    rw [BitVec.toNat_add]; simp; omega

/-- Output taken inside the current block (R178): no permutation, the bytes from POS on. -/
theorem squeezeBytes_inBlock (rate : BitVec 8) (n : Nat) (p : SpongePoint) (h : p.pos.toNat + n ≤ rate.toNat) :
    squeezeBytes rate n p = ((List.range n).map fun k => p.lanes.byte (p.pos.toNat + k), ⟨p.lanes, p.pos + BitVec.ofNat 8 n⟩) := by
  induction n generalizing p with
  | zero => simp [squeezeBytes]
  | succ n ih =>
    have hlt := rate.isLt
    have hne : p.pos ≠ rate := fun he => by rw [he] at h; omega
    have hf : freshBlock rate p = p := by simp [freshBlock, hne]
    have hp : (p.pos + 1).toNat = p.pos.toNat + 1 := by
      rw [BitVec.toNat_add]; simp; omega
    simp only [squeezeBytes, hf]
    rw [ih ⟨p.lanes, p.pos + 1⟩ (by simp only [hp]; omega)]
    simp only [hp, List.range_succ_eq_map, List.map_cons, List.map_map, Nat.add_zero]
    refine Prod.ext ?_ ?_
    · simp only [List.cons.injEq, true_and]
      refine List.map_congr_left fun k _ => ?_
      simp only [Function.comp]; congr 1; omega
    · simp only [SpongePoint.mk.injEq, true_and]
      apply BitVec.eq_of_toNat_eq
      simp [BitVec.toNat_add]; omega

@[simp] theorem length_sponge (rate : BitVec 8) (pb : Byte) (msg : List Byte) (n : Nat) : (sponge rate pb msg n).length = n := by
  simp [sponge]

@[simp] theorem length_rawAddress (key : List Byte) : (rawAddress key).length = 20 := by simp [rawAddress, keccak256]

@[simp] theorem length_hexLower (bs : List Byte) : (hexLower bs).length = 2 * bs.length := by
  induction bs with
  | nil => rfl
  | cons b bs ih => simp [hexLower, ih]; omega

@[simp] theorem length_eip55Text (raw : List Byte) : (eip55Text raw).length = 42 := by simp [eip55Text]

/-- A decoded text has a byte for every two characters. -/
theorem length_hexDecode : ∀ {cs bs : List Byte}, hexDecode cs = some bs → cs.length = 2 * bs.length
  | [], bs, h => by simp [hexDecode] at h; simp [h]
  | [_], bs, h => by simp [hexDecode] at h
  | c :: d :: cs, bs, h => by
    unfold hexDecode at h
    split at h
    · rename_i he
      cases h
      simp [length_hexDecode he]; omega
    · cases h

/-- A text of even length decodes exactly when every character is a hex character (R212, R213). -/
theorem hexDecode_isSome : ∀ {n : Nat} {cs : List Byte}, cs.length = 2 * n → ((hexDecode cs).isSome = true ↔ ∀ c ∈ cs, hexVal c ≠ none)
  | 0, cs, h => by
    have : cs = [] := List.length_eq_zero_iff.mp (by omega)
    subst this; simp [hexDecode]
  | _ + 1, [], h => by simp at h
  | _ + 1, [_], h => by simp at h; omega
  | n + 1, c :: d :: cs, h => by
    have ih := hexDecode_isSome (n := n) (cs := cs) (by simp at h; omega)
    unfold hexDecode
    cases hc : hexVal c <;> cases hd : hexVal d <;> cases he : hexDecode cs <;> simp_all

/-- A property of all operand bytes, by index. -/
theorem State.forall_dataBytes (s : State) (off n : Nat) (P : Byte → Prop) :
    (∀ c ∈ s.dataBytes off n, P c) ↔ ∀ k < n, P (s.dataRead (off + k)) := by
  simp [State.dataBytes]

/-- The content check of EIP55 fails on a non-hex character and on nothing else (R246). -/
theorem State.notHex_iff (s : State) (off : Nat) : s.notHex off = true ↔ ∃ k < 40, hexVal (s.dataRead (off + k)) = none := by
  have h := hexDecode_isSome (n := 20) (cs := s.dataBytes off 40) (by simp)
  rw [State.forall_dataBytes] at h
  unfold State.notHex
  rw [← Option.not_isSome, Bool.not_eq_true', ← Bool.not_eq_true, h]
  simp

/-- What DATA reads as after the result-area writes (R222). -/
theorem dataRead_addressResult {raw : List Byte} (s : State) (hraw : raw.length = 20) (k : Nat) :
    (addressResult raw s).dataRead k =
      if 0xD4 ≤ k ∧ k < 0xD4 + 42 then (eip55Text raw).getD (k - 0xD4) 0
      else if 0xC0 ≤ k ∧ k < 0xC0 + 20 then raw.getD (k - 0xC0) 0
      else s.dataRead k := by
  have h1 := State.dataRead_writeBytes (s := { s with data := s.data.writeBytes 0xC0 raw }) (t := addressResult raw s) rfl
    (addressResult_data raw s) rfl rfl k
  have h2 := State.dataRead_writeBytes (s := s) (t := { s with data := s.data.writeBytes 0xC0 raw }) rfl rfl rfl rfl k
  rw [h1, h2, length_eip55Text, hraw]

/-- What DATA reads as after SQUEEZE (R190). -/
theorem dataRead_squeezeBody (off len : Nat) (s : State) (k : Nat) :
    (squeezeBody off len s).dataRead k =
      if off ≤ k ∧ k < off + len then (squeezeBytes s.rate len s.point).1.getD (k - off) 0 else s.dataRead k := by
  rw [State.dataRead_writeBytes (s := s) (t := squeezeBody off len s) rfl (squeezeBody_data off len s) rfl rfl, length_squeezeBytes]

end Sys2Proof.Machine
end

