-- ==== Sys2Proof/Laws/Step.lean ====
section
/-! SUPPORT. Everything a step can do, said once (20_memory.md R84, R85; 70_reset_and_hazards.md R280). -/

namespace Sys2Proof.Machine

/-- The input chosen while BUSY is never a held access (R84). -/
theorem chooseInput_unheld {busy : Bool} {xs : List Input} {c : Chosen} {r : Request}
    (h : chooseInput busy xs = some c) (hr : c.chosen = .access r) : busy = false ∨ r.held = false := by
  induction xs generalizing c with
  | nil => simp [chooseInput] at h
  | cons x xs ih =>
    cases x with
    | reset => simp [chooseInput] at h; subst h; simp at hr
    | access q =>
      unfold chooseInput at h
      split at h
      · cases hc : chooseInput busy xs with
        | none => simp [hc] at h
        | some d => simp [hc] at h; subst h; exact ih hc hr
      · rename_i hn
        simp at h; subst h
        simp only [Input.access.injEq] at hr; subst hr
        cases busy <;> simp_all

/-- The chosen input, and what is left, are among the inputs. -/
theorem chooseInput_mem {busy : Bool} {xs : List Input} {c : Chosen} (h : chooseInput busy xs = some c) :
    c.chosen ∈ xs ∧ ∀ x ∈ c.before.map Input.access ++ c.after, x ∈ xs := by
  induction xs generalizing c with
  | nil => simp [chooseInput] at h
  | cons x xs ih =>
    cases x with
    | reset =>
      simp [chooseInput] at h; subst h
      exact ⟨List.mem_cons_self, fun x hx => List.mem_cons_of_mem _ (by simpa using hx)⟩
    | access q =>
      unfold chooseInput at h
      split at h
      · cases hc : chooseInput busy xs with
        | none => simp [hc] at h
        | some d =>
          simp [hc] at h; subst h
          refine ⟨List.mem_cons_of_mem _ (ih hc).1, fun x hx => ?_⟩
          rw [List.map_cons, List.cons_append, List.mem_cons] at hx
          rcases hx with rfl | hx
          · exact List.mem_cons_self
          · exact List.mem_cons_of_mem _ ((ih hc).2 x hx)
      · simp at h; subst h
        exact ⟨List.mem_cons_self, fun x hx => List.mem_cons_of_mem _ (by simpa using hx)⟩

/-- Held accesses are passed over: the search goes on behind them. -/
theorem chooseInput_heldPrefix {bs : List Request} (h : ∀ b ∈ bs, b.held = true) (xs : List Input) :
    chooseInput true (bs.map .access ++ xs) = (chooseInput true xs).map fun c => ⟨bs ++ c.before, c.chosen, c.after⟩ := by
  induction bs with
  | nil => cases hc : chooseInput true xs <;> simp [hc]
  | cons b bs ih =>
    rw [List.map_cons, List.cons_append, chooseInput, ih fun c hc => h c (List.mem_cons_of_mem _ hc)]
    simp only [h b List.mem_cons_self, Bool.true_and, if_true]
    cases chooseInput true xs <;> rfl

/-- Everything serving can do: nothing, `rst`, or one access on the state with that access taken from the inputs. -/
theorem State.serve_cases (s : State) :
    s.serve = s ∨ (∃ b a, Input.reset ∈ s.inputs ∧ s.serve = s.applyReset b a) ∨
    (∃ r xs, (s.busy = false ∨ r.held = false) ∧ Input.access r ∈ s.inputs ∧ (∀ x ∈ xs, x ∈ s.inputs) ∧
      s.serve = State.perform { s with inputs := xs } r) := by
  unfold State.serve
  cases hc : chooseInput s.busy s.inputs with
  | none => exact .inl rfl
  | some c =>
    right
    have hm := chooseInput_mem hc
    obtain ⟨b, x, a⟩ := c
    cases x with
    | reset => exact .inl ⟨b, a, hm.1, rfl⟩
    | access r => exact .inr ⟨r, _, chooseInput_unheld hc rfl, hm.1, hm.2, rfl⟩

/-- The word a step runs is the one whose turn has come. -/
theorem State.readyWord_eq_some {s : State} {w : Word} : s.readyWord = some w ↔ s.Ready w := by
  unfold State.readyWord State.Ready
  cases s.held with
  | none => simp
  | some v =>
    simp only [Option.some.injEq]
    split
    · rename_i h; simp [h]
    · rename_i h
      constructor
      · exact fun hn => nomatch hn
      · exact fun hr => absurd hr.2 h

/-- The word `withFetchWord` stores is ready. -/
theorem State.withFetchWord_ready (s : State) (nbits w : Nat) : (s.withFetchWord nbits w).Ready (wordOfTable nbits w) :=
  ⟨rfl, rfl, by simp⟩

/-- Everything a step can do: run the held command, reject its word, or wait and serve. -/
theorem step_cases (s : State) :
    (∃ w i, s.Ready w ∧ decode w = .ok i ∧ step s = exec i s) ∨
    (∃ w e, s.Ready w ∧ decode w = .error e ∧ step s = .next (s.completeIllegal w)) ∨
    ((∀ w, ¬s.Ready w) ∧ step s = .next s.waitStep) := by
  unfold step
  cases hr : s.readyWord with
  | none =>
    refine .inr (.inr ⟨fun w hw => ?_, rfl⟩)
    rw [State.readyWord_eq_some.mpr hw] at hr; cases hr
  | some w =>
    have h := State.readyWord_eq_some.mp hr
    simp only [State.runHeld]
    cases hd : decode w with
    | ok i => exact .inl ⟨w, i, h, hd, rfl⟩
    | error e => exact .inr (.inl ⟨w, e, h, hd, rfl⟩)

/-- A step whose word is ready runs it. -/
theorem step_of_ready {s : State} {w : Word} (h : s.Ready w) : step s = s.runHeld w := by
  simp [step, State.readyWord_eq_some.mpr h]

/-- A step without a ready word waits and serves. -/
theorem step_of_not_ready {s : State} (h : ∀ w, ¬s.Ready w) : step s = .next s.waitStep := by
  rcases step_cases s with ⟨w, _, hw, _⟩ | ⟨w, _, hw, _⟩ | ⟨_, hs⟩
  · exact absurd hw (h w)
  · exact absurd hw (h w)
  · exact hs

/-- No step stops (R240). -/
theorem step_next (s : State) : ∃ t, step s = .next t := by
  rcases step_cases s with ⟨_, i, _, _, h⟩ | ⟨_, _, _, _, h⟩ | ⟨_, h⟩
  · rw [h]; exact exec_next i s
  all_goals exact ⟨_, h⟩

end Sys2Proof.Machine
end

