-- ==== Sys2Proof/Tests/Slice0.lean ====
section
/-! SUPPORT. Small tests, each of one check, one word or one step; expected results are the spec's (95_test_vectors.md and the rules
named), and the witnesses that the hypotheses of the statements can be met. -/

namespace Sys2Proof.Tests

open Sys2Proof.Machine

/-! ### States the tests start from -/

/-- Bytes written from index 0 on. -/
def written (bs : List Byte) : State := { State.reset with data := Memory.writeBytes [] 0 bs }

/-- A state about to run a word. -/
def running (s : State) (w : Nat) : State := s.withFetchWord 32 w

/-- The state an outcome goes on with; reset if it does not. -/
def after (o : Host.Outcome State Fault Refusal) : State :=
  match o with
  | .next t => t
  | .fault _ => State.reset
  | .refused _ => State.reset

/-- An open SHA3-256 sponge, as `INIT SHA3-256` leaves it (V-S25), with 0 completion bits. -/
def absorbing : State := { State.reset with phase := .absorb, rate := 136, pad := .sha3Nist, variant := .sha3_256, outlen := 32 }

/-- The same, squeezing. -/
def squeezing : State := { absorbing with phase := .squeeze }

/-- 40 hex digits "0". -/
def zeros : State := written (List.replicate 40 0x30)

/-- 40 lowercase "a". -/
def lower : State := written (List.replicate 40 0x61)

/-- 40 uppercase "A". -/
def upper : State := written (List.replicate 40 0x41)

/-- Lanes zero but for those listed. -/
def lanesOf (ls : List (Nat × Lane)) : Lanes := ls.foldl (fun A p => A.setIfInBounds p.1 p.2) Lanes.zero

/-! ### Well-formedness: one ill-formed term per check (R107) -/

theorem test_rate_does_not_fit : (Instr.init 256 1).wellFormed = false := by decide
theorem test_pad_does_not_fit : (Instr.init 136 4).wellFormed = false := by decide
theorem test_absorb_off_does_not_fit : (Instr.absorb 256 1).wellFormed = false := by decide
theorem test_absorb_len_does_not_fit : (Instr.absorb 0 512).wellFormed = false := by decide
theorem test_squeeze_off_does_not_fit : (Instr.squeeze 256 1).wellFormed = false := by decide
theorem test_squeeze_len_does_not_fit : (Instr.squeeze 0 512).wellFormed = false := by decide
theorem test_ethaddr_off_does_not_fit : (Instr.ethaddr 256 64).wellFormed = false := by decide
theorem test_ethaddr_len_does_not_fit : (Instr.ethaddr 0 512).wellFormed = false := by decide
theorem test_eip55_off_does_not_fit : (Instr.eip55 256 40).wellFormed = false := by decide
theorem test_eip55_len_does_not_fit : (Instr.eip55 0 512).wellFormed = false := by decide

/-! ### Decoding: a word of each row, written bit by bit from R102 to R104 (reserved, LEN or RATE, OFF or PAD and VARIANT, OPC) -/

theorem test_decode_nop : decode 0b00000000_00000000_00000000_00000000 = .ok .nop := by decide
theorem test_decode_clear : decode 0b00000000_00000000_00000000_00000001 = .ok .clear := by decide
theorem test_decode_init : decode 0b00000000_10001000_0001_0000_00000010 = .ok (.init 136 1) := by decide
theorem test_decode_initSha3_224 : decode 0b00000000_00000000_0000_0001_00000010 = .ok .initSha3_224 := by decide
theorem test_decode_initSha3_256 : decode 0b00000000_00000000_0000_0010_00000010 = .ok .initSha3_256 := by decide
theorem test_decode_initSha3_384 : decode 0b00000000_00000000_0000_0011_00000010 = .ok .initSha3_384 := by decide
theorem test_decode_initSha3_512 : decode 0b00000000_00000000_0000_0100_00000010 = .ok .initSha3_512 := by decide
theorem test_decode_initShake128 : decode 0b00000000_00000000_0000_0101_00000010 = .ok .initShake128 := by decide
theorem test_decode_initShake256 : decode 0b00000000_00000000_0000_0110_00000010 = .ok .initShake256 := by decide
theorem test_decode_initKeccak256 : decode 0b00000000_00000000_0000_0111_00000010 = .ok .initKeccak256 := by decide
theorem test_decode_absorb : decode 0b0000000_000000111_11111010_00000011 = .ok (.absorb 250 7) := by decide
theorem test_decode_final : decode 0b00000000_00000000_00000000_00000100 = .ok .final := by decide
theorem test_decode_squeeze : decode 0b0000000_100000000_00000001_00000101 = .ok (.squeeze 1 256) := by decide
theorem test_decode_permute : decode 0b00000000_00000000_00000000_00000110 = .ok .permute := by decide
theorem test_decode_ethaddr : decode 0b0000000_001000000_11000001_00000111 = .ok (.ethaddr 193 64) := by decide
theorem test_decode_eip55 : decode 0b0000000_000101000_01000000_00001000 = .ok (.eip55 64 40) := by decide

/-- V-X5, V-X6, V-X7, V-X15 and the other ends of R105's ranges. -/
theorem test_decode_illegal :
    decode 0x00000009 = .error .reservedOpcode ∧ decode 0x000000FF = .error .reservedOpcode ∧
    decode 0x00000100 = .error .reservedBitsN ∧ decode 0x80000006 = .error .reservedBitsN ∧
    decode 0x00000A02 = .error .reservedBitsI ∧ decode 0x00004002 = .error .reservedBitsI ∧ decode 0x01000002 = .error .reservedBitsI ∧
    decode 0x00880202 = .error .presetWithOperands ∧ decode 0x00001202 = .error .presetWithOperands ∧
    decode 0x02010003 = .error .reservedBitsM ∧ decode 0x80000008 = .error .reservedBitsM := by decide

/-! ### Commands: the spec's vectors, one step each -/

/-- R150: only the completion update. -/
theorem test_nop : step (running squeezing 0x00000000) = .next { squeezing with done := true } := rfl

/-- R151, R283. -/
theorem test_clear :
    step (running { absorbing with pos := 3, lanes := lanesOf [(0, 0x636261)] } 0x00000001) =
      .next { absorbing with phase := .idle, done := true } := rfl

/-- V-S29: CFG and PHASE after a custom INIT with the largest RATE. -/
theorem test_init_custom :
    (after (step (running State.reset 0x00C71002))).cfgWord = 0x000001C7 ∧
    (after (step (running State.reset 0x00C71002))).statusWord = 0x00001002 := by decide

/-- V-X2, V-X3, V-X4. -/
theorem test_init_refused :
    ([0x00001002, 0x00C81002, 0x00883002].map fun w =>
      ((after (step (running State.reset w))).statusWord, (after (step (running State.reset w))).errinfo.toNat,
        (after (step (running State.reset w))).cfgWord)) =
      [(0x206, 0x00001002, 0), (0x206, 0x00C81002, 0), (0x206, 0x00883002, 0)] := by decide

/-- CFG after each preset: V-S25, V-S27, V-S28 and R48 with the rows of R171. -/
theorem test_init_presets :
    ([0x102, 0x202, 0x302, 0x402, 0x502, 0x602, 0x702].map fun w => (after (step (running State.reset w))).cfgWord) =
      [0x001C1190, 0x00202188, 0x00303168, 0x00404148, 0x000052A8, 0x00006288, 0x00207088] := by decide

/-- V-S23: little-endian bytes in lane 0, and POS. -/
theorem test_absorb :
    (after (step (running { absorbing with data := Memory.writeBytes [] 0 [0x61, 0x62, 0x63] } 0x00030003))).lanes =
        lanesOf [(0, 0x636261)] ∧
    (after (step (running { absorbing with data := Memory.writeBytes [] 0 [0x61, 0x62, 0x63] } 0x00030003))).pos = 3 := by decide

/-- V-X1, V-X11, V-X13, V-X14: phase first, then the range. -/
theorem test_absorb_errors :
    (after (step (running State.reset 0x00010003))).statusWord = 0x00000306 ∧
    ([0x0007FA03, 0x0002FF03, 0x01010003].map fun w => (after (step (running absorbing w))).statusWord) =
      [0x00001406, 0x00001406, 0x00001406] := by decide

/-- V-S24: the lanes FINAL permutes. -/
theorem test_final_padding :
    padLanes 136 PadRule.sha3Nist.byte ⟨lanesOf [(0, 0x636261)], 3⟩ = lanesOf [(0, 0x06636261), (16, 0x8000000000000000)] := by
  decide

/-- R187: the two pad bytes meet in one. -/
theorem test_final_one_byte_left :
    padLanes 136 PadRule.sha3Nist.byte ⟨Lanes.zero, 135⟩ = lanesOf [(16, 0x8600000000000000)] ∧
    padLanes 1 PadRule.shake.byte ⟨Lanes.zero, 0⟩ = lanesOf [(0, 0x9F)] := by decide

/-- V-S1 by its first four bytes: FINAL of an empty message, byte order of R32. -/
theorem test_final : ((after (step (running absorbing 0x00000004))).lanes.lane 0).setWidth 32 = 0xF8C6FFA7#32 := by decide +kernel

/-- R190: bytes of the state from POS on go to DATA from OFF on, and POS and OUTCNT count them. -/
theorem test_squeeze :
    after (step (running { squeezing with lanes := lanesOf [(0, 0x0706050403020100)] } 0x00032005)) =
      { squeezing with
        lanes := lanesOf [(0, 0x0706050403020100)], pos := 3, outcnt := 3, data := [(0x20, 0), (0x21, 1), (0x22, 2)], done := true } := by
  decide

/-- V-X8, V-X9, V-X10, V-X18: the limit, nothing at all, and phase before range. -/
theorem test_squeeze_errors :
    (after (step (running squeezing 0x00210005))).statusWord = 0x00002706 ∧
    (after (step (running { squeezing with pos := 32, outcnt := 32 } 0x00010005))).statusWord = 0x00002706 ∧
    (after (step (running squeezing 0x00000005))).statusWord = 0x00002002 ∧
    (after (step (running absorbing 0x000AFA05))).statusWord = 0x00001306 := by decide

/-- V-P1: PERMUTE after reset. -/
theorem test_permute :
    (fun t : State => (t.lanes.lane 0, t.lanes.lane 24)) (after (step (running State.reset 0x00000006))) =
      (0xF1258F7940E1DDE7, 0xEAF1FF7B5CECA249) := by decide +kernel

/-- V-X19. -/
theorem test_permute_refused :
    step (running absorbing 0x00000006) =
      .next { absorbing with errcode := .sequenceError, err := true, errinfo := 6, done := true } := rfl

/-- V-X20, V-X22, V-X23, V-X24: length before range, and phase before all. -/
theorem test_ethaddr_errors :
    ([0x003F0007, 0x003FC807, 0x0040C107].map fun w => (after (step (running State.reset w))).statusWord) = [0x506, 0x506, 0x406] ∧
    (after (step (running absorbing 0x00400007))).statusWord = 0x00001306 := by decide

/-- V-E9 by the first and last byte of the address. -/
theorem test_ethaddr :
    (fun t : State => (t.dataRead 0xC0, t.dataRead 0xD3, t.statusWord))
      (after (step (running (written (List.replicate 64 0)) 0x00400007))) = (0x3F, 0xB5, 0x00000002) := by decide +kernel

/-- V-E8: the cased text of forty "f" begins 0xFFfF. -/
theorem test_eip55 :
    (fun t : State => t.dataBytes 0xD4 6) (after (step (running (written (List.replicate 40 0x66)) 0x00280008))) =
      [0x30, 0x78, 0x46, 0x46, 0x66, 0x46] := by decide +kernel

/-- V-X25, V-X26 (a "g" last): length, then content. -/
theorem test_eip55_errors :
    (after (step (running zeros 0x002A0008))).statusWord = 0x00000606 ∧
    (after (step (running (written (List.replicate 39 0x30 ++ [0x67])) 0x00280008))).statusWord = 0x00000606 := by decide +kernel

/-- V-X7: an illegal word. -/
theorem test_illegal_word :
    step (running State.reset 0x00000009) =
      .next { State.reset with errcode := .illegalCommand, err := true, errinfo := 9, done := true } := rfl

/-! ### The permutation's steps (95_test_vectors.md section 3) -/

/-- V-P3, V-P4. -/
theorem test_theta :
    theta (lanesOf [(0, 1)]) = lanesOf ([(0, 1)] ++ [1, 6, 11, 16, 21].map (·, 1) ++ [4, 9, 14, 19, 24].map (·, 2)) ∧
    theta (lanesOf [(6, 1)]) = lanesOf ([(6, 1)] ++ [0, 5, 10, 15, 20].map (·, 2) ++ [2, 7, 12, 17, 22].map (·, 1)) := by
  decide +kernel

/-- V-P5 at lanes 0, 2, 7 and 8. -/
theorem test_rho :
    [0, 2, 7, 8].map (rho (Vector.replicate 25 1)).lane = [1, 0x4000000000000000, 0x40, 0x0080000000000000] := by decide +kernel

/-- V-P6. -/
theorem test_pi :
    (piStep (Lanes.build fun x y => BitVec.ofNat 64 (x + 5 * y))).toList.map BitVec.toNat =
      [0, 6, 12, 18, 24, 3, 9, 10, 16, 22, 1, 7, 13, 19, 20, 4, 5, 11, 17, 23, 2, 8, 14, 15, 21] := by decide +kernel

/-- V-P7, V-P8. -/
theorem test_chi :
    chi (lanesOf [(1, 0xFFFFFFFFFFFFFFFF)]) = lanesOf [(1, 0xFFFFFFFFFFFFFFFF), (4, 0xFFFFFFFFFFFFFFFF)] ∧
    chi (lanesOf [(2, 0xFFFFFFFFFFFFFFFF)]) = lanesOf [(0, 0xFFFFFFFFFFFFFFFF), (2, 0xFFFFFFFFFFFFFFFF)] := by decide +kernel

/-- V-P9, V-P10. -/
theorem test_iota :
    keccakRound Lanes.zero 0 = lanesOf [(0, 1)] ∧ keccakRound Lanes.zero 1 = lanesOf [(0, 0x8082)] := by decide +kernel

/-! ### The bus -/

/-- R71: RD32 of P1, the first four digest bytes 3a 98 5d a7 at DATA[0x40]. -/
theorem test_read_little_endian :
    State.busRead { State.reset with data := Memory.writeBytes [] 0x40 [0x3A, 0x98, 0x5D, 0xA7] } 0x240 4 = 0xA75D983A := by decide

/-- P2's ACK: 0x506 becomes 0x500. -/
theorem test_acknowledge :
    (State.busWrite { State.reset with errcode := .invalidKeySize, err := true, done := true } 0x00C 4 0x00000006).statusWord =
      0x00000500 := by decide

/-- P4: the STATE window reads 0 and ignores writes outside IDLE. -/
theorem test_window_closed :
    State.busRead { absorbing with lanes := lanesOf [(0, 0x12345678)] } 0x100 4 = 0 ∧
    State.busWrite absorbing 0x100 4 0x12345678 = absorbing := by decide

/-- R84: with BUSY set, the read of CFG waits and the read of STATUS behind it, by the same agent, is answered: BUSY = 1. -/
theorem test_status_while_busy :
    (after (step { State.reset with
      held := some 0, busyLeft := 2, inputs := [.access ⟨0, 0x014, 4, .read⟩, .access ⟨0, 0x00C, 4, .read⟩] })).responses =
        [⟨0, false, 1⟩] := by decide

/-- R84: a misaligned read is a bus error at once, also behind a held read of its own agent. -/
theorem test_bus_error_while_busy :
    (after (step { State.reset with
      held := some 0, busyLeft := 2, inputs := [.access ⟨0, 0x014, 4, .read⟩, .access ⟨0, 0x012, 4, .read⟩] })).responses =
        [⟨0, true, 0⟩] := by decide

/-- R247, R281: with rst asserted a command whose BUSY time is over does not complete; it is discarded, and a CMD write held in front of
rst does not run before it. -/
theorem test_reset_discards_command :
    (fun t : State => (t.held, t.done, t.irq, t.resets))
      (after (step { running State.reset 6 with ie := true, inputs := [.access ⟨0, 0x010, 4, .write 0⟩, .reset] })) =
        (none, false, false, 1) := by decide

/-- R71, R78: a 4-byte write to the STATE window in IDLE sets four bytes of lane 0, little-endian. -/
theorem test_window_open :
    (fun t : State => (t.lanes.lane 0, t.busRead 0x106 2)) (State.busWrite State.reset 0x104 4 0x12345678) =
      (0x1234567800000000, 0x1234) := by decide

/-! ### Witnesses: the hypotheses of each statement are met, at the ends of its ranges -/

theorem test_witness_DecodeOfEncode :
    (Instr.init 255 3).wellFormed = true ∧ (Instr.squeeze 255 511).wellFormed = true ∧ (Instr.absorb 0 0).wellFormed = true := by decide

theorem test_witness_EncodeOfDecode : decode 0x01FFFF05 = .ok (.squeeze 255 511) ∧ decode 0x00FF3002 = .ok (.init 255 3) := by decide

theorem test_witness_IllegalWordsExactly :
    (running State.reset 9).Ready 9 ∧ decode 9 = .error .reservedOpcode := ⟨⟨rfl, rfl, by decide⟩, rfl⟩

theorem test_witness_StepRunsHeldCommand :
    (running State.reset 6).Ready 6 ∧ decode 6 = .ok .permute ∧ decodeTableWord 32 6 = some .permute :=
  ⟨⟨rfl, rfl, by decide⟩, rfl, rfl⟩

theorem test_witness_InputsInOrder :
    State.reset.held = none ∧ State.reset.inputs = [] ∧
    ({ State.reset with inputs := [.access ⟨0, 0x010, 4, .write 6⟩, .reset] } : State).inputs =
      .access ⟨0, 0x010, 4, .write 6⟩ :: [.reset] := by decide

/-- A held read; behind it a bus error, and a STATUS read. -/
theorem test_witness_BusyHoldsAccesses :
    ({ State.reset with held := some 4, busyLeft := 1 } : State).busyLeft = 0 + 1 ∧
    (∀ b ∈ [Request.mk 0 0x200 1 .read], b.legal = true ∧ ¬(b.offset = 0x00C ∧ b.size = 4)) ∧
    Request.legal ⟨0, 0x00C, 2, .read⟩ = false ∧ ((Request.mk 0 0x00C 4 .read).offset = 0x00C ∧ (Request.mk 0 0x00C 4 .read).size = 4) := by
  decide

theorem test_witness_AcceptedCommandCompletes :
    ({ State.reset with held := some 4, busyLeft := 3, inputs := [.access ⟨0, 0x00C, 4, .read⟩] } : State).held = some 4 ∧
    Input.reset ∉ [Input.access ⟨0, 0x00C, 4, .read⟩] := by decide

theorem test_witness_LaneCommandResults : State.reset.phase = .idle := by decide

theorem test_witness_CustomInitResult : (1 ≤ 1 ∧ 1 ≤ 199 ∧ 0 < 3) ∧ (1 ≤ 199 ∧ 199 ≤ 199 ∧ 2 < 3) := by decide

theorem test_witness_PresetInitResults :
    Instr.preset .initSha3_224 = some .sha3_224 ∧ Variant.row .sha3_224 = some (144, .sha3Nist, 28) ∧
    Instr.preset .initSha3_256 = some .sha3_256 ∧ Variant.row .sha3_256 = some (136, .sha3Nist, 32) ∧
    Instr.preset .initSha3_384 = some .sha3_384 ∧ Variant.row .sha3_384 = some (104, .sha3Nist, 48) ∧
    Instr.preset .initSha3_512 = some .sha3_512 ∧ Variant.row .sha3_512 = some (72, .sha3Nist, 64) ∧
    Instr.preset .initShake128 = some .shake128 ∧ Variant.row .shake128 = some (168, .shake, 0) ∧
    Instr.preset .initShake256 = some .shake256 ∧ Variant.row .shake256 = some (136, .shake, 0) ∧
    Instr.preset .initKeccak256 = some .keccak256 ∧ Variant.row .keccak256 = some (136, .keccakOriginal, 32) := by decide

theorem test_witness_AbsorbRunsItsLoop : absorbing.phase = .absorb ∧ 255 + 1 ≤ 256 ∧ 0 + 256 ≤ 256 := by decide

theorem test_witness_AbsorbInsideBlock :
    absorbing.phase = .absorb ∧ 121 + 135 ≤ 256 ∧ absorbing.pos.toNat + 135 < absorbing.rate.toNat ∧ absorbing.rate.toNat ≤ 199 := by
  decide

theorem test_witness_FinalPadsAndPermutes :
    absorbing.phase = .absorb ∧ 1 ≤ absorbing.rate.toNat ∧ absorbing.rate.toNat ≤ 199 ∧ absorbing.pos.toNat < absorbing.rate.toNat := by
  decide

/-- The last byte of a block, and the only byte of the smallest one. -/
theorem test_witness_FinalOneByteLeft :
    (fun s : State => s.phase = .absorb ∧ 1 ≤ s.rate.toNat ∧ s.rate.toNat ≤ 199 ∧ s.pos.toNat = s.rate.toNat - 1)
      { absorbing with pos := 135 } ∧
    (fun s : State => s.phase = .absorb ∧ 1 ≤ s.rate.toNat ∧ s.rate.toNat ≤ 199 ∧ s.pos.toNat = s.rate.toNat - 1)
      { absorbing with rate := 1 } := by decide

theorem test_witness_SqueezeRunsItsLoop :
    squeezing.phase = .squeeze ∧ 224 + 32 ≤ 256 ∧ (squeezing.outlen ≠ 0 → squeezing.outcnt.toNat + 32 ≤ squeezing.outlen.toNat) := by
  decide

/-- One byte too many, and the last that fits. -/
theorem test_witness_OutputLengthCheck :
    squeezing.phase = .squeeze ∧ 0 + 33 ≤ 256 ∧ (squeezing.outlen ≠ 0 ∧ squeezing.outlen.toNat < squeezing.outcnt.toNat + 33) ∧
    ¬(squeezing.outlen ≠ 0 ∧ squeezing.outlen.toNat < squeezing.outcnt.toNat + 32) := by decide

/-- An open sponge meets the invariant. -/
theorem test_squeezing_inv : squeezing.Inv := by
  constructor <;> first | decide | exact ⟨rfl, rfl, rfl⟩

theorem test_witness_DigestIsOneBlock :
    squeezing.Inv ∧ squeezing.phase = .squeeze ∧ squeezing.outlen ≠ 0 ∧ 224 + 32 ≤ 256 ∧
    squeezing.outcnt.toNat + 32 ≤ squeezing.outlen.toNat := ⟨test_squeezing_inv, by decide⟩

theorem test_witness_EthaddrResult : State.reset.phase = .idle ∧ 192 + 64 ≤ 256 := by decide

theorem test_witness_EipFiftyFiveResult :
    zeros.phase = .idle ∧ 0 + 40 ≤ 256 ∧ (∀ k < 40, hexVal (zeros.dataRead (0 + k)) ≠ none) ∧
    (List.replicate 20 (0 : Byte)).length = 20 := by decide +kernel

theorem test_witness_CheckOrder : (running State.reset 0x00010003).Ready 0x00010003 := ⟨rfl, rfl, by decide⟩

/-- A command that completes, and one that fails. -/
theorem test_witness_CompletionUpdate :
    ((running State.reset 0).Ready 0 ∧ ∃ t, step (running State.reset 0) = .next t ∧ t.errcode = .ok) ∧
    (running absorbing 6).Ready 6 ∧ ∃ t, step (running absorbing 6) = .next t ∧ t.errcode ≠ .ok :=
  ⟨⟨⟨rfl, rfl, by decide⟩, _, rfl, rfl⟩, ⟨rfl, rfl, by decide⟩, _, rfl, by decide⟩

theorem test_witness_ErrorsArePrecise :
    (running absorbing 6).Ready 6 ∧ ∃ t, step (running absorbing 6) = .next t ∧ t.errcode ≠ .ok :=
  ⟨⟨rfl, rfl, by decide⟩, _, rfl, by decide⟩

theorem test_witness_CommandFrame : ∃ t, exec .clear State.reset = .next t := ⟨_, rfl⟩

theorem test_witness_LaneCommandFrame :
    (∃ t, exec .nop State.reset = .next t) ∧ (∃ t, exec .clear State.reset = .next t) ∧ ∃ t, exec .permute absorbing = .next t :=
  ⟨⟨_, rfl⟩, ⟨_, rfl⟩, ⟨_, rfl⟩⟩

theorem test_witness_InitFrame : Instr.isInit (.init 136 1) = true ∧ ∃ t, exec (.init 136 1) zeros = .next t := ⟨rfl, _, rfl⟩

theorem test_witness_AbsorbFinalFrame : (∃ t, exec (.absorb 0 3) absorbing = .next t) ∧ ∃ t, exec .final absorbing = .next t :=
  ⟨⟨_, rfl⟩, ⟨_, rfl⟩⟩

theorem test_witness_SqueezeFrame : ∃ t, exec (.squeeze 0x20 3) squeezing = .next t := ⟨_, rfl⟩

theorem test_witness_AddressFrame : (∃ t, exec (.ethaddr 0 64) zeros = .next t) ∧ ∃ t, exec (.eip55 0 40) zeros = .next t :=
  ⟨⟨_, rfl⟩, ⟨_, rfl⟩⟩

theorem test_witness_StepKeepsInvariant : squeezing.Inv ∧ ∃ t, step squeezing = .next t := ⟨test_squeezing_inv, _, rfl⟩

theorem test_witness_ConfigurationWriters :
    ∃ t, step (running State.reset 0x202) = .next t ∧
      ¬(t.rate = (running State.reset 0x202).rate ∧ t.pad = (running State.reset 0x202).pad ∧
        t.variant = (running State.reset 0x202).variant ∧ t.outlen = (running State.reset 0x202).outlen) := ⟨_, rfl, by decide⟩

/-- A host write to the STATE window in IDLE. -/
theorem test_witness_LaneFileWriters :
    ∃ t, step { State.reset with inputs := [.access ⟨0, 0x1C7, 1, .write 1⟩] } = .next t ∧ t.lanes ≠ State.reset.lanes :=
  ⟨_, rfl, by decide⟩

theorem test_witness_SqueezeEnteredByFinal :
    ∃ t, step (running absorbing 4) = .next t ∧ t.phase = .squeeze ∧ (running absorbing 4).phase ≠ .squeeze := ⟨_, rfl, rfl, by decide⟩

/-- Nothing held, and a command still busy. -/
theorem test_witness_OpenSpongeIsHidden :
    (absorbing.phase ≠ .idle ∧ absorbing.held = none ∧ Input.reset ∉ absorbing.inputs ∧ ∃ t, step absorbing = .next t) ∧
    ({ absorbing with held := some 4, busyLeft := 1 } : State).busyLeft ≠ 0 := ⟨⟨by decide, rfl, by decide, _, rfl⟩, by decide⟩

/-- "abc" in two pieces, the digest in two halves (program P1). -/
theorem test_witness_SplittingDoesNotMatter :
    ∃ s₁, Instr.isInit .initSha3_256 = true ∧ exec .initSha3_256 State.reset = .next s₁ ∧ s₁.errcode = .ok ∧
      (∀ c ∈ [Chunk.mk [(0, 0x61)] 0 1, ⟨[(1, 0x62), (2, 0x63)], 1, 2⟩] ++ [⟨[], 0x40, 16⟩, ⟨[], 240, 16⟩], c.off + c.len ≤ 256) ∧
      (s₁.outlen ≠ 0 → (([⟨[], 0x40, 16⟩, ⟨[], 240, 16⟩] : List Chunk).map Chunk.len).sum ≤ s₁.outlen.toNat) :=
  ⟨_, rfl, rfl, rfl, by decide, by decide⟩

theorem test_witness_CasingDoesNotMatter :
    lower.phase = .idle ∧ upper.phase = .idle ∧ 0 + 40 ≤ 256 ∧
    ∀ k < 40, hexVal (lower.dataRead (0 + k)) ≠ none ∧ hexVal (upper.dataRead (0 + k)) = hexVal (lower.dataRead (0 + k)) := by
  decide +kernel

theorem test_witness_RecasingAnAddressKeepsIt : zeros.phase = .idle ∧ 192 + 64 ≤ 256 := by decide

/-- The least and the greatest digit of each kind. -/
theorem test_witness_HexRoundTrip :
    hexDecode [0x41, 0x66] = some [0xAF] ∧ hexLower [0xAF] = [0x61, 0x66] ∧
    (0 < [(0x9F : Byte)].length ∧ (0x9F : Byte).toNat = 9 * 16 + 15 ∧ 15 < 16) ∧ hexVal 0x30 = some 0 ∧ hexVal 0x39 = some 9 ∧
    hexVal 0x46 = some 15 ∧ hexVal 0x66 = some 15 := by decide

/-- The corner lane, where both column indexes wrap. -/
theorem test_witness_ThetaLanes : 4 < 5 ∧ (4 + 4) % 5 = 3 ∧ (4 + 1) % 5 = 0 := by decide

theorem test_witness_RhoPiChiIotaLanes : (0 < 5 ∧ 0 < 5) ∧ (4 < 5 ∧ (2 * 4 + 3 * 4) % 5 = 0) := by decide

theorem test_witness_RhoOffsetsGenerated : 23 < 24 ∧ rhoWalk 0 = (1, 0) ∧ rhoWalk 23 = (1, 1) := by decide

theorem test_witness_RoundConstantsGenerated : 23 < 24 ∧ 63 < 64 ∧ 63 = 2 ^ 6 - 1 := by decide

/-- The ends of R74's ranges. -/
theorem test_witness_BusErrors :
    Request.legal ⟨0, 0x0FC, 4, .read⟩ = true ∧ Request.legal ⟨0, 0x0FE, 4, .read⟩ = false ∧ Request.legal ⟨0, 0x0FC, 2, .read⟩ = false ∧
    Request.legal ⟨0, 0x101, 1, .read⟩ = true ∧ Request.legal ⟨0, 0x101, 2, .read⟩ = false ∧ Request.legal ⟨0, 0x102, 4, .read⟩ = false ∧
    Request.legal ⟨0, 0x3FF, 1, .read⟩ = true ∧ Request.legal ⟨0, 0x100, 8, .read⟩ = false := by decide

theorem test_witness_ReadsHaveNoEffect :
    ((Request.mk 0 0x00C 4 .read).op = .read ∧ (Request.mk 0 0x00C 4 .read).legal = true) ∧
    (Request.mk 0 0x3FF 1 (.write 1)).op = .write 1 ∧ (Request.mk 0 0x3FF 1 (.write 1)).legal = true := by decide

theorem test_witness_RegisterReads : 0x024 ≤ 0x024 ∧ 0x024 < 0x100 ∧ 0x024 ≤ 0x0FC ∧ 0x0FC < 0x100 := by decide

theorem test_witness_RegisterWrites : 0x000 < 0x100 ∧ 0x0FC < 0x100 ∧ 0x0FC ≠ 0x008 ∧ 0x0FC ≠ 0x00C ∧ 0x0FC ≠ 0x010 := by decide

/-- The first and last access of each width, in both kinds of phase. -/
theorem test_witness_StateWindow :
    (0 + 1 ≤ 200 ∧ 199 + 1 ≤ 200) ∧ (198 + 2 ≤ 200) ∧ (196 + 4 ≤ 200) ∧ State.reset.phase = .idle ∧ absorbing.phase ≠ .idle ∧
    squeezing.phase ≠ .idle := by decide

theorem test_witness_StateWindowLanes : 24 < 25 ∧ State.reset.phase = .idle := by decide

theorem test_witness_DataReadAfterWrite : 255 + 1 ≤ 256 ∧ 254 + 2 ≤ 256 ∧ 252 + 4 ≤ 256 := by decide

theorem test_witness_ReservedRanges :
    (0x1C8 ≤ 0x1C8 ∧ 0x1C8 + 4 ≤ 0x200) ∧ (0x1C8 ≤ 0x1FF ∧ 0x1FF + 1 ≤ 0x200) ∧ (0x300 ≤ 0x3FC ∧ 0x3FC + 4 ≤ 0x400) := by decide

theorem test_witness_InterruptOutput :
    (∃ t, exec .nop { State.reset with ie := true } = .next t) ∧ (0x00000002 : Word).getLsbD 1 = true ∧
    ∃ t, step (running State.reset 0) = .next t ∧ t.done = true ∧ (running State.reset 0).done = false :=
  ⟨⟨_, rfl⟩, by decide, _, rfl, rfl, rfl⟩

/-- With nothing held; with a command whose BUSY time is over; and behind a held write. -/
theorem test_witness_ResetInput :
    ({ absorbing with inputs := [.reset] } : State).inputs = ([] : List Request).map .access ++ .reset :: [] ∧
    ({ absorbing with held := some 4, inputs := [.reset] } : State).inputs = ([] : List Request).map .access ++ .reset :: [] ∧
    ({ absorbing with held := some 4, inputs := [.access ⟨0, 0x200, 1, .write 7⟩, .reset] } : State).inputs =
      [Request.mk 0 0x200 1 (.write 7)].map .access ++ .reset :: [] ∧
    ({ absorbing with held := some 4 } : State).held ≠ none ∧
    ∀ b ∈ [Request.mk 0 0x200 1 (.write 7)], b.legal = true ∧ ¬(b.offset = 0x00C ∧ b.size = 4) := by decide

/-- Two engines of different numbers. -/
theorem test_witness_OtherEnginesUntouched :
    Platform.wf ⟨[⟨0, State.reset⟩, ⟨1024, { absorbing with engine := 1 }⟩]⟩ = true ∧
    (∃ q, Platform.stepAt ⟨[⟨0, State.reset⟩, ⟨1024, { absorbing with engine := 1 }⟩]⟩ 1 = .next q) ∧ 0 ≠ 1 :=
  ⟨by decide, ⟨_, rfl⟩, by decide⟩

end Sys2Proof.Tests
end

section
/-! The output-length check of SQUEEZE (41_sponge.md R192), and the variants that have no fixed output length (R171). -/

namespace Sys2Proof.Machine

theorem State.pastOutlen_iff (s : State) (len : Nat) :
    s.pastOutlen len = true ↔ s.outlen ≠ 0 ∧ s.outlen.toNat < s.outcnt.toNat + len := by
  simp [State.pastOutlen]

/-- In phase SQUEEZE and inside DATA, R192 is the only check of SQUEEZE (R246) that can still fail. -/
theorem exec_squeeze_in_range {s : State} {off len : Nat} (hphase : s.phase = .squeeze) (hrange : off + len ≤ 256) :
    exec (.squeeze off len) s = .next
      (if s.pastOutlen len then s.failed (encode (.squeeze off len)) .outputLength else (squeezeBody off len s).succeeded) := by
  have hchecks : firstFailure
      [(s.outside [.squeeze], .sequenceError), (outOfRange off len, .bufferRange), (s.pastOutlen len, .outputLength)] =
      if s.pastOutlen len then some .outputLength else none := by
    simp [outOfRange, hphase, hrange]
  by_cases hpast : s.pastOutlen len = true
  · rw [if_pos hpast] at hchecks ⊢
    exact congrArg Host.Outcome.next ((State.command_of_fail hchecks s _ _).trans (s.complete_error _ (by decide)))
  · rw [if_neg hpast] at hchecks ⊢
    exact congrArg Host.Outcome.next ((State.command_of_pass hchecks s _ _).trans (State.complete_ok _ _))

/-- Of the preset rows of R171, those of the two SHAKE variants alone have OUTLEN 0. -/
theorem Variant.row_outlen_eq_zero_iff {v : Variant} {rate outlen : Nat} {pad : PadRule} (h : v.row = some (rate, pad, outlen)) :
    outlen = 0 ↔ v = .shake128 ∨ v = .shake256 := by
  cases v <;> cases h <;> decide

theorem Variant.row_eq_none_iff (v : Variant) : v.row = none ↔ v = .custom := by
  cases v <;> decide

/-- A configuration the block can have (R38, R171) sets no output length exactly for SHAKE128, SHAKE256 and custom. -/
theorem State.outlen_eq_zero_iff_of_cfgOk {s : State} (h : s.cfgOk) :
    s.outlen = 0 ↔ s.variant = .shake128 ∨ s.variant = .shake256 ∨ s.variant = .custom := by
  unfold State.cfgOk at h
  split at h
  case h_1 rate pad outlen hrow =>
    obtain ⟨-, -, houtlen⟩ := h
    have hcustom : s.variant ≠ .custom := fun hv => by simp [(Variant.row_eq_none_iff _).2 hv] at hrow
    have hzero : s.outlen = 0 ↔ outlen = 0 := by rw [← houtlen, ← BitVec.toNat_inj]; rfl
    rw [hzero, Variant.row_outlen_eq_zero_iff hrow]
    simp [hcustom]
  case h_2 hrow =>
    obtain ⟨-, houtlen⟩ := h
    simp [houtlen, (Variant.row_eq_none_iff _).1 hrow]

/-- Settles O18: inside phase and range the checks of SQUEEZE come down to `pastOutlen`; the rows of R171 say where OUTLEN is 0. -/
theorem outputLengthCheck : Obligations.OutputLengthCheck := by
  refine ⟨fun s off len hphase hrange => ?_, fun s hinv => State.outlen_eq_zero_iff_of_cfgOk hinv.config⟩
  rw [exec_squeeze_in_range hphase hrange, ← State.pastOutlen_iff]
  constructor
  · intro hpast
    rw [if_pos hpast]
  · intro hfits
    exact ⟨_, congrArg _ (if_neg hfits), State.succeeded_errcode _⟩

end Sys2Proof.Machine
end

section
/-! The error code and the completion of every command word (60_exceptions.md R244, R246, R249, R250). -/

namespace Sys2Proof.Machine

theorem badConfiguration_iff (rate pad : Nat) : badConfiguration rate pad = true ↔ ¬(1 ≤ rate ∧ rate ≤ 199 ∧ pad ≠ 3 ∧ pad < 4) := by
  simp only [badConfiguration, Bool.or_eq_true, decide_eq_true_eq]
  omega

theorem outOfRange_iff (off len : Nat) : outOfRange off len = true ↔ ¬(off + len ≤ 256) := by
  simp [outOfRange]

/-- The content check of EIP55, as the table of R246 writes it. -/
theorem State.notHex_eq_any (s : State) (off : Nat) :
    s.notHex off = (List.range 40).any fun k => (hexVal (s.dataRead (off + k))).isNone := by
  rw [Bool.eq_iff_iff, State.notHex_iff]
  simp

/-- The output-length check of SQUEEZE (R192), as the table of R246 writes it. -/
theorem State.pastOutlen_iff_toNat (s : State) (len : Nat) :
    s.pastOutlen len = true ↔ s.outlen.toNat ≠ 0 ∧ s.outlen.toNat < s.outcnt.toNat + len := by
  rw [State.pastOutlen_iff, ← BitVec.toNat_ne_iff_ne]; rfl

theorem expectedError_of_not_admitted {i : Instr} {s : State} (h : admitted i s.phase = false) : expectedError i s = .sequenceError := by
  simp [expectedError, h]

/-- No check after the phase check gives SequenceError (R246). -/
theorem expectedError_ne_sequenceError {i : Instr} {s : State} (h : admitted i s.phase = true) : expectedError i s ≠ .sequenceError := by
  unfold expectedError
  rw [if_neg (by simp [h])]
  repeat' split
  all_goals decide

/-- The code of a check list, one check after the other (R246). -/
theorem getD_firstFailure_cons (fails : Bool) (code : ErrorCode) (rest : List (Bool × ErrorCode)) :
    (firstFailure ((fails, code) :: rest)).getD .ok = if fails then code else (firstFailure rest).getD .ok := by
  cases fails <;> rfl

/-- The code of every command is the one the table of R246 gives: command by command, its check list is that table. -/
theorem errcode_exec (i : Instr) (s : State) : ∃ t, exec i s = .next t ∧ t.errcode = expectedError i s := by
  cases i <;> refine ⟨_, rfl, (State.errcode_command _ _ _ _).trans ?_⟩ <;>
    simp only [expectedError, admitted, getD_firstFailure_cons, firstFailure_nil, Option.getD_none,
      State.outside_single]
  case init rate pad => simp only [badConfiguration_iff, ite_not, Bool.true_eq_false, if_false]
  case absorb off len =>
    simp only [outOfRange_iff, ite_not]
    simp
  case squeeze off len => simp [outOfRange, State.pastOutlen_iff_toNat]
  case ethaddr off len => simp [outOfRange]
  case eip55 off len => simp [outOfRange, State.notHex_eq_any]
  case final | permute => simp
  -- NOP, CLEAR and the preset INITs make no check after decode.
  all_goals rfl

/-- Settles O23: only the phase check, the first of the table of R246, gives SequenceError. -/
theorem phaseAdmission : Obligations.PhaseAdmission := by
  intro i s
  obtain ⟨t, hstep, hcode⟩ := errcode_exec i s
  refine ⟨t, hstep, ?_⟩
  rw [hcode]
  cases h : admitted i s.phase with
  | false => simp [expectedError_of_not_admitted h]
  | true => simp [expectedError_ne_sequenceError h]

theorem step_of_ready_legal {s : State} {w : Word} {i : Instr} (hready : s.Ready w) (hd : decode w = .ok i) : step s = exec i s := by
  simp [step_of_ready hready, State.runHeld, hd]

theorem step_of_ready_illegal {s : State} {w : Word} {e : Illegal} (hready : s.Ready w) (hd : decode w = .error e) :
    step s = .next (s.failed w .illegalCommand) := by
  simp [step_of_ready hready, State.runHeld, hd, State.completeIllegal, State.complete_error]

/-- Settles O22: an illegal word fails decode, every other word completes with the code of its command's checks. -/
theorem checkOrder : Obligations.CheckOrder := by
  intro s w hready
  cases hd : decode w with
  | error e => exact ⟨_, step_of_ready_illegal hready hd, rfl⟩
  | ok i =>
    rw [step_of_ready_legal hready hd]
    exact errcode_exec i s

/-- A word is its opcode byte and the rest (R100, R101). -/
theorem eq_ofNat_of_opcode {w : Word} {opc rest n : Nat} (hopc : field w 0 8 = opc) (hrest : w.toNat / 2 ^ 8 = rest)
    (hn : opc + rest * 2 ^ 8 = n) : BitVec.ofNat 32 n = w := by
  have hw : n = w.toNat := by
    simp only [field] at hopc
    omega
  rw [hw, BitVec.ofNat_toNat, BitVec.setWidth_eq]

theorem encode_of_decodeN {w : Word} {i j : Instr} {opc : Nat} (hopc : field w 0 8 = opc) (hj : encode j = BitVec.ofNat 32 opc)
    (h : decodeN j w = .ok i) : encode i = w := by
  obtain ⟨rfl, hrest⟩ := decodeN_ok h
  rw [hj, eq_ofNat_of_opcode hopc hrest (by omega)]

theorem encode_of_decodeM {w : Word} {i : Instr} {f : Nat → Nat → Instr} {opc : Nat} (hopc : field w 0 8 = opc)
    (hf : ∀ off len, encode (f off len) = encodeM opc off len) (h : decodeM f w = .ok i) : encode i = w := by
  obtain ⟨off, len, -, rfl, hrest⟩ := decodeM_ok h
  rw [hf, encodeM, eq_ofNat_of_opcode hopc hrest (by omega)]

theorem encode_of_decodeI {w : Word} {i : Instr} (hopc : field w 0 8 = 0x02) (h : decodeI w = .ok i) : encode i = w := by
  rcases decodeI_ok h with ⟨rate, pad, -, rfl, hrest⟩ | ⟨c, hc, hc8, rfl, hrest⟩
  · exact eq_ofNat_of_opcode hopc hrest (by omega)
  · rw [(encode_presetOf c hc hc8).2, eq_ofNat_of_opcode hopc hrest rfl]

/-- ERRINFO's word is the one that was held (log entry 10): a word that decodes is the encoding of its command (R102 to R106). -/
theorem encode_of_decode {w : Word} {i : Instr} (h : decode w = .ok i) : encode i = w := by
  unfold decode at h
  split at h
  case h_1 | h_2 | h_5 | h_7 => exact encode_of_decodeN ‹_› rfl h
  case h_3 => exact encode_of_decodeI ‹_› h
  case h_4 | h_6 | h_8 | h_9 => exact encode_of_decodeM ‹_› (fun _ _ => rfl) h
  case h_10 => cases h

/-- R249 and R250 for every ready word, legal or not: an error changes the completion fields only. -/
theorem step_of_ready_cases {s t : State} {w : Word} (hready : s.Ready w) (h : step s = .next t) :
    (t.errcode ≠ .ok ∧ t = s.failed w t.errcode) ∨ (t.errcode = .ok ∧ ∃ u, BodyFrame s u ∧ t = u.succeeded) := by
  cases hd : decode w with
  | error e =>
    cases (step_of_ready_illegal hready hd).symm.trans h
    exact .inl ⟨by simp, rfl⟩
  | ok i =>
    rw [step_of_ready_legal hready hd] at h
    rw [← encode_of_decode hd]
    exact exec_cases h

/-- Settles O25: of the two ways a ready word completes (R249), only `failed` has a nonzero code. -/
theorem errorsArePrecise : Obligations.ErrorsArePrecise := by
  intro s t w hready h hne
  rcases step_of_ready_cases hready h with ⟨-, ht⟩ | ⟨hok, -⟩
  · exact ht
  · exact absurd hok hne

/-- Settles O24: the code is that of `checkOrder`, the other completion fields those of `failed` or `succeeded`. -/
theorem completionUpdate : Obligations.CompletionUpdate := by
  intro s t w hready h
  obtain ⟨u, hu, hcode⟩ := checkOrder s w hready
  cases hu.symm.trans h
  refine ⟨hcode, ?_⟩
  rcases step_of_ready_cases hready h with ⟨hne, ht⟩ | ⟨hok, u, hframe, rfl⟩
  · rw [ht]
    exact ⟨rfl, rfl, fun _ => ⟨rfl, rfl⟩, fun hok => absurd hok hne⟩
  · exact ⟨rfl, rfl, fun hne => absurd hok hne, fun _ => ⟨hframe.err, hframe.errinfo⟩⟩

end Sys2Proof.Machine
end

section
/-! The interrupt output (60_exceptions.md R255): which operations set DONE, and which clear it. -/

namespace Sys2Proof.Machine

theorem State.irq_eq_false_of_done {s : State} (h : s.done = false) : s.irq = false := by
  simp [State.irq, h]

@[simp] theorem State.busWrite_status (s : State) (v : Word) : s.busWrite 0x00C 4 v = s.writeStatus v := rfl

@[simp] theorem State.busWrite_cmd (s : State) (v : Word) : s.busWrite 0x010 4 v = s.accept v := rfl

/-- A command that completes, with or without an error, sets `irq` where CTRL.IE is set. -/
theorem irq_exec {i : Instr} {s t : State} (h : exec i s = .next t) : t.irq = s.ie := by
  rcases exec_cases h with ⟨-, ht⟩ | ⟨-, u, hframe, rfl⟩
  · rw [ht]; simp [State.irq]
  · simp [State.irq, hframe.ie]

theorem State.done_of_done_writeRegister {s : State} {offset : Nat} {v : Word} (h : (s.writeRegister offset v).done = true) :
    s.done = true := by
  rcases s.writeRegister_cases offset v with ⟨-, hw⟩ | ⟨-, hw⟩ | ⟨-, hw⟩ | hw <;> rw [hw] at h
  · exact h
  · simp at h; exact h.1
  · simp at h
  · exact h

/-- No host access sets DONE (R40, R42). -/
theorem State.done_of_done_perform {s : State} {r : Request} (h : (s.perform r).done = true) : s.done = true := by
  rcases s.perform_cases r with ⟨a, hp, -⟩ | ⟨v, -, -, -, hp⟩ | ⟨v, -, -, -, hp⟩ <;> rw [hp, State.respond_done] at h
  · exact h
  · exact State.done_of_done_writeRegister h
  · rwa [(s.writeBytes_frame _ _ _).done] at h

/-- Neither an access nor `rst` sets DONE. -/
theorem State.done_of_done_serve {s : State} (h : s.serve.done = true) : s.done = true := by
  rcases s.serve_cases with hs | ⟨b, a, -, hs⟩ | ⟨r, xs, -, -, -, hs⟩ <;> rw [hs] at h
  · exact h
  · cases h
  · have hbefore := State.done_of_done_perform h
    exact hbefore

/-- A step that runs no command does not set DONE. -/
theorem State.done_of_done_waitStep {s : State} (h : s.waitStep.done = true) : s.done = true := by
  have hbefore := State.done_of_done_serve h
  exact hbefore

/-- Settles O57: completion is the only source of DONE, for a step that is not the held word's turn only waits and serves. -/
theorem interruptOutput : Obligations.InterruptOutput := by
  refine ⟨fun _ => rfl, fun _ _ _ => irq_exec, fun s v => ⟨?_, fun hv => ?_⟩, rfl, fun s t h hdone hnot => ?_⟩
  · exact State.irq_eq_false_of_done (by simp)
  · exact State.irq_eq_false_of_done (by simp [hv])
  · by_contra hnone
    rw [step_of_not_ready (not_exists.1 hnone)] at h
    cases h
    simp [State.done_of_done_waitStep hdone] at hnot

end Sys2Proof.Machine
end

section
/-! Decoding and encoding undo each other, and which words are no command (30_encoding.md R102 to R107). -/

namespace Sys2Proof

open Machine

theorem decodeM_encodeM (f : Nat → Nat → Instr) {opc off len : Nat} (hopc : opc < 256) (h : fitsM off len = true) :
    decodeM f (encodeM opc off len) = .ok (f off len) := by
  simp only [fitsM, Bool.and_eq_true, decide_eq_true_eq] at h
  have hword : opc + off * 2 ^ 8 + len * 2 ^ 16 < 2 ^ 32 := by omega
  have hreserved : field (encodeM opc off len) 25 7 = 0 := by rw [encodeM, field_ofNat _ _ _ hword]; omega
  have hoff : field (encodeM opc off len) 8 8 = off := by rw [encodeM, field_ofNat _ _ _ hword]; omega
  have hlen : field (encodeM opc off len) 16 9 = len := by rw [encodeM, field_ofNat _ _ _ hword]; omega
  simp [decodeM, hreserved, hoff, hlen]

theorem decodeI_encodeI_custom {rate pad : Nat} (h : fitsI rate pad = true) : decodeI (encodeI 0 pad rate) = .ok (.init rate pad) := by
  simp only [fitsI, Bool.and_eq_true, decide_eq_true_eq] at h
  have hword : 0x02 + 0 * 2 ^ 8 + pad * 2 ^ 12 + rate * 2 ^ 16 < 2 ^ 32 := by omega
  have hreserved : field (encodeI 0 pad rate) 11 1 = 0 ∧ field (encodeI 0 pad rate) 14 2 = 0 ∧ field (encodeI 0 pad rate) 24 8 = 0 := by
    simp only [encodeI, field_ofNat _ _ _ hword]; omega
  have hvariant : field (encodeI 0 pad rate) 8 3 = 0 := by rw [encodeI, field_ofNat _ _ _ hword]; omega
  have hpad : field (encodeI 0 pad rate) 12 2 = pad := by rw [encodeI, field_ofNat _ _ _ hword]; omega
  have hrate : field (encodeI 0 pad rate) 16 8 = rate := by rw [encodeI, field_ofNat _ _ _ hword]; omega
  simp [decodeI, hreserved, hvariant, hpad, hrate]

/-- Settles O1: row by row; the opcode byte leads to the row's decoder, which finds each operand in its field. -/
theorem decodeOfEncode : Obligations.DecodeOfEncode := by
  intro i h
  cases i
  case init rate pad =>
    obtain ⟨hopc, -⟩ := Laws.OpcodeByte.init rate pad h
    simp only [decode, hopc, Laws.OpcodeByte.opcode]
    exact decodeI_encodeI_custom h
  case absorb off len =>
    obtain ⟨hopc, -⟩ := Laws.OpcodeByte.absorb off len h
    simp only [decode, hopc, Laws.OpcodeByte.opcode]
    exact decodeM_encodeM _ (by decide) h
  case squeeze off len =>
    obtain ⟨hopc, -⟩ := Laws.OpcodeByte.squeeze off len h
    simp only [decode, hopc, Laws.OpcodeByte.opcode]
    exact decodeM_encodeM _ (by decide) h
  case ethaddr off len =>
    obtain ⟨hopc, -⟩ := Laws.OpcodeByte.ethaddr off len h
    simp only [decode, hopc, Laws.OpcodeByte.opcode]
    exact decodeM_encodeM _ (by decide) h
  case eip55 off len =>
    obtain ⟨hopc, -⟩ := Laws.OpcodeByte.eip55 off len h
    simp only [decode, hopc, Laws.OpcodeByte.opcode]
    exact decodeM_encodeM _ (by decide) h
  -- The other eleven rows have one word each.
  all_goals decide

theorem wellFormed_of_decodeM {w : Word} {i : Instr} {f : Nat → Nat → Instr} (h : decodeM f w = .ok i)
    (hf : ∀ off len, fitsM off len = true → (f off len).wellFormed = true) : i.wellFormed = true := by
  obtain ⟨off, len, hfits, rfl, -⟩ := decodeM_ok h
  exact hf off len hfits

theorem wellFormed_of_decodeI {w : Word} {i : Instr} (h : decodeI w = .ok i) : i.wellFormed = true := by
  rcases decodeI_ok h with ⟨rate, pad, hfits, rfl, -⟩ | ⟨c, hc, hc8, rfl, -⟩
  · exact hfits
  · exact (encode_presetOf c hc hc8).1

theorem wellFormed_of_decode {w : Word} {i : Instr} (h : decode w = .ok i) : i.wellFormed = true := by
  unfold decode at h
  split at h
  case h_1 | h_2 | h_5 | h_7 => obtain ⟨rfl, -⟩ := decodeN_ok h; rfl
  case h_3 => exact wellFormed_of_decodeI h
  case h_4 | h_6 | h_8 | h_9 => exact wellFormed_of_decodeM h fun _ _ hfits => hfits
  case h_10 => cases h

/-- Settles O2: the operands are read from fields of their width, and no bit of the word is outside them. -/
theorem encodeOfDecode : Obligations.EncodeOfDecode := fun _ _ h => ⟨wellFormed_of_decode h, encode_of_decode h⟩

/-- Settles O3: the sixteen words, one by one. -/
theorem specWordsDecode : Obligations.SpecWordsDecode := by
  unfold Obligations.SpecWordsDecode
  decide

theorem decodeN_error_iff (i : Instr) (w : Word) : (∃ e, decodeN i w = .error e) ↔ field w 8 24 ≠ 0 := by
  unfold decodeN
  split <;> simp_all

theorem decodeM_error_iff (f : Nat → Nat → Instr) (w : Word) : (∃ e, decodeM f w = .error e) ↔ field w 25 7 ≠ 0 := by
  unfold decodeM
  split <;> simp_all

theorem decodeI_error_iff (w : Word) : (∃ e, decodeI w = .error e) ↔
    (field w 11 1 ≠ 0 ∨ field w 14 2 ≠ 0 ∨ field w 24 8 ≠ 0) ∨ (field w 8 3 ≠ 0 ∧ (field w 12 2 ≠ 0 ∨ field w 16 8 ≠ 0)) := by
  unfold decodeI
  split
  · rename_i hreserved
    exact ⟨fun _ => .inl hreserved, fun _ => ⟨_, rfl⟩⟩
  · split
    · simp_all
    · split <;> simp_all

/-- The five cases of R105, by fields. -/
theorem decode_error_iff (w : Word) : (∃ e, decode w = .error e) ↔
    (9 ≤ field w 0 8 ∨
     ((field w 0 8 = 0 ∨ field w 0 8 = 1 ∨ field w 0 8 = 4 ∨ field w 0 8 = 6) ∧ field w 8 24 ≠ 0) ∨
     (field w 0 8 = 2 ∧ (field w 11 1 ≠ 0 ∨ field w 14 2 ≠ 0 ∨ field w 24 8 ≠ 0)) ∨
     (field w 0 8 = 2 ∧ field w 8 3 ≠ 0 ∧ (field w 12 2 ≠ 0 ∨ field w 16 8 ≠ 0)) ∨
     ((field w 0 8 = 3 ∨ field w 0 8 = 5 ∨ field w 0 8 = 7 ∨ field w 0 8 = 8) ∧ field w 25 7 ≠ 0)) := by
  unfold decode
  split
  case h_1 hopc | h_2 hopc | h_5 hopc | h_7 hopc => simp [hopc, decodeN_error_iff]
  case h_3 hopc => simp [hopc, decodeI_error_iff]
  case h_4 hopc | h_6 hopc | h_8 hopc | h_9 hopc => simp [hopc, decodeM_error_iff]
  case h_10 =>
    simp only [imp_false] at *
    exact ⟨fun _ => .inl (by omega), fun _ => ⟨_, rfl⟩⟩

/-- Settles O4: R105's cases by fields, read as slices of the word; the completion is that of every illegal word. -/
theorem illegalWordsExactly : Obligations.IllegalWordsExactly := by
  refine ⟨fun w => ?_, fun s w e hready hd => step_of_ready_illegal hready hd⟩
  rw [decode_error_iff]
  simp only [ne_eq, ← BitVec.toNat_inj, toNat_extractLsb'_eq_field]
  rfl

end Sys2Proof
end

section
/-! When a held command runs and which input a step performs (20_memory.md R84, R85; log entries 2 to 5). -/

namespace Sys2Proof.Machine

theorem decode_of_decodeTableWord {nbits w : Nat} {i : Instr} (h : decodeTableWord nbits w = some i) :
    decode (wordOfTable nbits w) = .ok i := by
  unfold decodeTableWord at h
  split at h
  · cases hd : decode (wordOfTable nbits w) <;> simp_all [Except.toOption]
  · cases h

/-- Settles O5: both states have their word ready. -/
theorem stepRunsHeldCommand : Obligations.StepRunsHeldCommand :=
  ⟨fun _ _ _ hready hd => step_of_ready_legal hready hd,
    fun s nbits w _ h => step_of_ready_legal (s.withFetchWord_ready nbits w) (decode_of_decodeTableWord h)⟩

theorem State.not_ready_of_idle {s : State} (h : s.held = none) (w : Word) : ¬s.Ready w := fun ⟨hw, _⟩ => by simp [h] at hw

theorem State.not_ready_of_busy {s : State} (h : s.busyLeft ≠ 0) (w : Word) : ¬s.Ready w := fun ⟨_, hb, _⟩ => h hb

theorem State.not_ready_of_reset {s : State} (h : Input.reset ∈ s.inputs) (w : Word) : ¬s.Ready w := fun ⟨_, _, hr⟩ => hr h

@[simp] theorem State.busy_eq_false_iff (s : State) : s.busy = false ↔ s.held = none := by simp [State.busy]

@[simp] theorem State.busy_eq_true_iff (s : State) : s.busy = true ↔ s.held ≠ none := by
  simp [State.busy, Option.isSome_iff_ne_none]

/-- BUSY, while a word is held, has one step less to go (log entry 2). -/
def State.tick (s : State) : State := { s with busyLeft := if s.busy then s.busyLeft - 1 else s.busyLeft }

/-- Everything a step that runs no command can do: only count, take `rst`, or perform one access. -/
theorem State.waitStep_cases (s : State) :
    s.waitStep = s.tick ∨ (∃ b a, Input.reset ∈ s.inputs ∧ s.waitStep = s.tick.applyReset b a) ∨
    (∃ r xs, (s.busy = false ∨ r.held = false) ∧ Input.access r ∈ s.inputs ∧ (∀ x ∈ xs, x ∈ s.inputs) ∧
      s.waitStep = State.perform { s.tick with inputs := xs } r) :=
  s.tick.serve_cases

theorem State.waitStep_of_idle {s : State} (h : s.held = none) : s.waitStep = s.serve := by
  simp [State.waitStep, (State.busy_eq_false_iff s).2 h]

/-- An access no held command keeps waiting is performed when it is the oldest input. -/
theorem chooseInput_access {busy : Bool} {r : Request} (h : busy = false ∨ r.held = false) (xs : List Input) :
    chooseInput busy (.access r :: xs) = some ⟨[], .access r, xs⟩ := by
  unfold chooseInput
  rw [if_neg (by rcases h with h | h <;> simp [h])]

theorem State.serve_of_none {s : State} (h : chooseInput s.busy s.inputs = none) : s.serve = s := by
  simp [State.serve, h]

theorem State.serve_of_access {s : State} {bs : List Request} {r : Request} {xs : List Input}
    (h : chooseInput s.busy s.inputs = some ⟨bs, .access r, xs⟩) :
    s.serve = State.perform { s with inputs := bs.map .access ++ xs } r := by
  simp [State.serve, h]

theorem State.serve_of_reset {s : State} {bs : List Request} {xs : List Input}
    (h : chooseInput s.busy s.inputs = some ⟨bs, .reset, xs⟩) : s.serve = s.applyReset bs xs := by
  simp [State.serve, h]

/-- Settles O6: with nothing held the first input is the one chosen. -/
theorem inputsInOrder : Obligations.InputsInOrder := by
  intro s hheld
  rw [step_of_not_ready (State.not_ready_of_idle hheld), State.waitStep_of_idle hheld]
  refine ⟨fun hnone => ?_, fun r xs hinputs => ?_⟩
  · rw [State.serve_of_none (by rw [hnone]; rfl)]
  · rw [State.serve_of_access (bs := []) (by rw [hinputs]; exact chooseInput_access (.inl ((State.busy_eq_false_iff s).2 hheld)) xs)]
    rfl

theorem Request.toStatus_iff (r : Request) : r.toStatus = true ↔ r.offset = 0x00C ∧ r.size = 4 := by
  simp [Request.toStatus, and_comm]

/-- R84: what BUSY holds, as the statements write it. -/
theorem Request.held_iff (r : Request) : r.held = true ↔ r.legal = true ∧ ¬(r.offset = 0x00C ∧ r.size = 4) := by
  simp only [Request.held, Bool.and_eq_true, Bool.not_eq_true', ← Bool.not_eq_true, Request.toStatus_iff]

theorem Request.not_held_iff (r : Request) : r.held = false ↔ r.legal = false ∨ (r.offset = 0x00C ∧ r.size = 4) := by
  rw [← Bool.not_eq_true, Request.held_iff, ← Bool.not_eq_true r.legal]
  tauto

/-- Behind held accesses BUSY lets an access pass that it does not hold (R84). -/
theorem chooseInput_behind_held {bs : List Request} {r : Request} (hbs : ∀ b ∈ bs, b.held = true) (hr : r.held = false)
    (xs : List Input) : chooseInput true (bs.map .access ++ .access r :: xs) = some ⟨bs, .access r, xs⟩ := by
  rw [chooseInput_heldPrefix hbs, chooseInput_access (.inr hr)]
  simp

/-- With held accesses alone waiting, BUSY lets nothing pass. -/
theorem chooseInput_all_held {bs : List Request} (hbs : ∀ b ∈ bs, b.held = true) : chooseInput true (bs.map .access) = none := by
  simpa [chooseInput] using chooseInput_heldPrefix hbs []

theorem State.waitStep_of_busy {s : State} {w : Word} {n : Nat} (hheld : s.held = some w) (hleft : s.busyLeft = n + 1) :
    s.waitStep = State.serve { s with busyLeft := n } := by
  simp [State.waitStep, State.busy, hheld, hleft]

/-- Settles O7: the choice of the input passes over what BUSY holds. -/
theorem busyHoldsAccesses : Obligations.BusyHoldsAccesses := by
  intro s w n bs hheld hleft hbs
  have hbusy : s.busy = true := by simp [hheld]
  have hbs' : ∀ b ∈ bs, b.held = true := fun b hb => b.held_iff.2 (hbs b hb)
  rw [step_of_not_ready (State.not_ready_of_busy (by omega)), State.waitStep_of_busy hheld hleft]
  refine ⟨fun hinputs => ?_, fun r xs hinputs hr => ?_⟩
  · rw [State.serve_of_none]
    exact (congrArg₂ chooseInput hbusy hinputs).trans (chooseInput_all_held hbs')
  · rw [State.serve_of_access]
    exact (congrArg₂ chooseInput hbusy hinputs).trans (chooseInput_behind_held hbs' (r.not_held_iff.2 hr) xs)

theorem SameEngine.refl (s : State) : SameEngine s s := by simp [SameEngine]

theorem SameEngine.trans {s t u : State} (hst : SameEngine s t) (htu : SameEngine t u) : SameEngine s u := by
  unfold SameEngine at *
  simp_all

/-- With no `rst` waiting, a step while BUSY lasts takes one from the count; the engine stays as it is but for DONE and ERR. -/
theorem State.waitStep_while_busy {s : State} {w : Word} {n : Nat} (hheld : s.held = some w) (hleft : s.busyLeft = n + 1)
    (hreset : Input.reset ∉ s.inputs) :
    SameEngine s s.waitStep ∧ s.waitStep.held = some w ∧ s.waitStep.busyLeft = n ∧ Input.reset ∉ s.waitStep.inputs := by
  rw [State.waitStep_of_busy hheld hleft]
  rcases State.serve_cases { s with busyLeft := n } with hs | ⟨b, a, hmem, -⟩ | ⟨r, xs, hr, -, hxs, hs⟩
  · rw [hs]
    exact ⟨SameEngine.refl s, hheld, rfl, hreset⟩
  · exact absurd hmem hreset
  · have hunheld : r.held = false := hr.resolve_left (by simp [hheld])
    obtain ⟨d, e, a, hp⟩ := State.perform_unheld { s with busyLeft := n, inputs := xs } r hunheld
    rw [hs, hp]
    exact ⟨SameEngine.refl s, hheld, rfl, fun hmem => hreset (hxs _ hmem)⟩

theorem core_run_succ {s t : State} (h : step s = .next t) (n : Nat) :
    Host.Core.run Sys2Proof.core (n + 1) s = Host.Core.run Sys2Proof.core n t := by
  have hstep : Sys2Proof.core.step s = .next t := h
  simp only [Host.Core.run, hstep]

theorem run_until_ready (w : Word) : ∀ (n : Nat) (s : State), s.busyLeft = n → s.held = some w → Input.reset ∉ s.inputs →
    ∃ u, Host.Core.run Sys2Proof.core n s = .next u ∧ SameEngine s u ∧ u.Ready w
  | 0, s, hleft, hheld, hreset => ⟨s, rfl, SameEngine.refl s, hheld, hleft, hreset⟩
  | n + 1, s, hleft, hheld, hreset => by
    obtain ⟨hsame, hheld', hleft', hreset'⟩ := State.waitStep_while_busy hheld hleft hreset
    obtain ⟨u, hrun, hsame', hready⟩ := run_until_ready w n s.waitStep hleft' hheld' hreset'
    have hstep := step_of_not_ready (State.not_ready_of_busy (s := s) (by omega))
    exact ⟨u, (core_run_succ hstep n).trans hrun, hsame.trans hsame', hready⟩

/-- Settles O8: by induction on the BUSY count; no access performed meanwhile touches the engine. -/
theorem acceptedCommandCompletes : Obligations.AcceptedCommandCompletes := by
  intro s w hheld hreset
  obtain ⟨u, hrun, hsame, hready⟩ := run_until_ready w s.busyLeft s rfl hheld hreset
  have ⟨huheld, huleft, _⟩ := hready
  exact ⟨u, hrun, hsame, huheld, huleft, step_of_ready hready⟩

/-- Settles O9: by induction on the number of steps, each of which answers a next state. -/
theorem everyRunIsSafe : Obligations.EveryRunIsSafe := by
  intro s n
  induction n generalizing s with
  | zero => exact ⟨s, rfl⟩
  | succ n ih =>
    obtain ⟨t, hstep⟩ := step_next s
    rw [core_run_succ hstep]
    exact ih t

end Sys2Proof.Machine
end

section
/-! What a command does once its checks have passed (40_permutation.md section 2, 41_sponge.md, 42_eip55.md), and the results that are
fixed by the command alone. -/

namespace Sys2Proof.Machine

/-- What a command does between its checks and its completion. -/
def pseudocode : Instr → State → State
  | .nop, s => s
  | .clear, s => s.toIdle
  | .init rate pad, s => s.openSponge .custom (BitVec.ofNat 8 rate) (padOfCode pad) 0
  | .initSha3_224, s => s.openSponge .sha3_224 144 .sha3Nist 28
  | .initSha3_256, s => s.openSponge .sha3_256 136 .sha3Nist 32
  | .initSha3_384, s => s.openSponge .sha3_384 104 .sha3Nist 48
  | .initSha3_512, s => s.openSponge .sha3_512 72 .sha3Nist 64
  | .initShake128, s => s.openSponge .shake128 168 .shake 0
  | .initShake256, s => s.openSponge .shake256 136 .shake 0
  | .initKeccak256, s => s.openSponge .keccak256 136 .keccakOriginal 32
  | .absorb off len, s => absorbBody off len s
  | .final, s => finalBody s
  | .squeeze off len, s => squeezeBody off len s
  | .permute, s => s.keccakF
  | .ethaddr off _, s => addressResult (rawAddress (s.dataBytes off 64)) s
  | .eip55 off _, s => addressResult ((hexDecode (s.dataBytes off 40)).getD []) s

/-- `pseudocode` is what `exec` puts into the template of every command. -/
theorem exec_pseudocode_template (i : Instr) (s : State) :
    ∃ checks, (∀ c ∈ checks, c.2 ≠ .ok) ∧ exec i s = .next (s.command (encode i) checks (pseudocode i)) := by
  cases i <;> exact ⟨_, by simp, rfl⟩

/-- A command whose checks pass (R246) runs its pseudocode and completes with OK; any other only completes, with its error. -/
theorem exec_eq (i : Instr) (s : State) : exec i s = .next
    (if expectedError i s = .ok then (pseudocode i s).succeeded else s.failed (encode i) (expectedError i s)) := by
  obtain ⟨t, ht, hcode⟩ := errcode_exec i s
  obtain ⟨checks, hne, he⟩ := exec_pseudocode_template i s
  rw [he] at ht ⊢
  cases ht
  rcases s.command_cases (encode i) checks (pseudocode i) with ⟨code, hfail, h⟩ | ⟨-, h⟩ <;> rw [h, State.complete_errcode] at hcode
  · have hcode_ne := hne _ (firstFailure_mem hfail)
    rw [h, ← hcode, if_neg hcode_ne, State.complete_error _ _ hcode_ne]
  · rw [h, ← hcode, if_pos rfl, State.complete_ok]

theorem exec_of_pass {i : Instr} {s : State} (h : expectedError i s = .ok) : exec i s = .next (pseudocode i s).succeeded := by
  rw [exec_eq, if_pos h]

/-- Everything a command can do, with its pseudocode named. -/
theorem exec_inv {i : Instr} {s t : State} (h : exec i s = .next t) :
    (expectedError i s = .ok ∧ t = (pseudocode i s).succeeded) ∨ ∃ code, t = s.failed (encode i) code := by
  rw [exec_eq] at h
  cases h
  by_cases hok : expectedError i s = .ok
  · exact .inl ⟨hok, if_pos hok⟩
  · exact .inr ⟨_, if_neg hok⟩

/-- A check of the table of R246, written with its condition to fail, passes exactly when the condition is false. -/
theorem ite_fail_eq_ok_iff {c : Prop} [Decidable c] {code rest : ErrorCode} (h : code ≠ .ok) :
    (if c then code else rest) = .ok ↔ ¬c ∧ rest = .ok := by
  by_cases hc : c <;> simp [hc, h]

/-- The same, with the condition to pass. -/
theorem ite_pass_eq_ok_iff {c : Prop} [Decidable c] {code rest : ErrorCode} (h : code ≠ .ok) :
    (if c then rest else code) = .ok ↔ c ∧ rest = .ok := by
  by_cases hc : c <;> simp [hc, h]

/-- What the checks of the custom INIT ask for (R181). -/
theorem pass_init_iff (rate pad : Nat) (s : State) :
    expectedError (.init rate pad) s = .ok ↔ 1 ≤ rate ∧ rate ≤ 199 ∧ pad ≠ 3 ∧ pad < 4 := by
  simp [expectedError, admitted]

/-- What the checks of ABSORB ask for (R183). -/
theorem pass_absorb_iff (off len : Nat) (s : State) :
    expectedError (.absorb off len) s = .ok ↔ s.phase = .absorb ∧ off + len ≤ 256 := by
  simp [expectedError, admitted, ite_pass_eq_ok_iff]

/-- What the check of FINAL asks for (R186). -/
theorem pass_final_iff (s : State) : expectedError .final s = .ok ↔ s.phase = .absorb := by
  simp [expectedError, admitted]

/-- What the checks of SQUEEZE ask for (R190, R192). -/
theorem pass_squeeze_iff (off len : Nat) (s : State) : expectedError (.squeeze off len) s = .ok ↔
    s.phase = .squeeze ∧ off + len ≤ 256 ∧ (s.outlen ≠ 0 → s.outcnt.toNat + len ≤ s.outlen.toNat) := by
  have houtlen : s.outlen.toNat ≠ 0 ↔ s.outlen ≠ 0 := BitVec.toNat_ne_iff_ne (n := 8) (y := 0)
  simp [expectedError, admitted, ite_fail_eq_ok_iff, ite_pass_eq_ok_iff, houtlen]

/-- What the check of PERMUTE asks for (R152). -/
theorem pass_permute_iff (s : State) : expectedError .permute s = .ok ↔ s.phase = .idle := by
  simp [expectedError, admitted]

/-- What the checks of ETHADDR ask for (R225). -/
theorem pass_ethaddr_iff (off len : Nat) (s : State) :
    expectedError (.ethaddr off len) s = .ok ↔ s.phase = .idle ∧ len = 64 ∧ off + len ≤ 256 := by
  simp [expectedError, admitted, ite_pass_eq_ok_iff]

/-- What the checks of EIP55 ask for (R228). -/
theorem pass_eip55_iff (off len : Nat) (s : State) :
    expectedError (.eip55 off len) s = .ok ↔ s.phase = .idle ∧ len = 40 ∧ off + len ≤ 256 ∧ s.notHex off = false := by
  simp [expectedError, admitted, ← State.notHex_eq_any, ite_fail_eq_ok_iff, ite_pass_eq_ok_iff]

/-- Settles O10: the three commands make no check but that of the phase. -/
theorem laneCommandResults : Obligations.LaneCommandResults := by
  intro s
  exact ⟨exec_of_pass rfl, exec_of_pass rfl, fun hphase => exec_of_pass ((pass_permute_iff s).2 hphase)⟩

theorem code_padOfCode {pad : Nat} (h : pad < 3) : (padOfCode pad).code = pad := by
  match pad, h with
  | 0, _ => rfl
  | 1, _ => rfl
  | 2, _ => rfl

/-- Settles O11: R181 refuses none of these configurations. -/
theorem customInitResult : Obligations.CustomInitResult := by
  intro s rate pad hlow hhigh hpad
  refine ⟨padOfCode pad, code_padOfCode hpad, exec_of_pass ((pass_init_iff rate pad s).2 ?_)⟩
  omega

/-- Settles O12: preset by preset, the row of R171 is what its command writes. -/
theorem presetInitResults : Obligations.PresetInitResults := by
  intro s i v rate pad outlen hpreset hrow
  cases i <;> cases hpreset <;> cases hrow <;> exact exec_of_pass rfl

end Sys2Proof.Machine
end

section
/-! The frames of the commands: what each leaves unchanged (60_exceptions.md R250, R251). -/

namespace Sys2Proof.Machine

/-- Settles O26: an error is precise, and no pseudocode touches these fields. -/
theorem commandFrame : Obligations.CommandFrame := by
  intro i s t h
  rcases exec_cases h with ⟨-, ht⟩ | ⟨-, u, hframe, rfl⟩
  · rw [ht]
    exact ⟨rfl, rfl, rfl, rfl, rfl, rfl, rfl⟩
  · exact ⟨hframe.ie, hframe.inputs, hframe.responses, hframe.busyLeft, hframe.pace, hframe.resets, hframe.engine⟩

/-- CFG is unchanged (R48). -/
def SameCfg (s t : State) : Prop := t.rate = s.rate ∧ t.pad = s.pad ∧ t.variant = s.variant ∧ t.outlen = s.outlen

theorem SameCfg.refl (s : State) : SameCfg s s := ⟨rfl, rfl, rfl, rfl⟩

/-- No pseudocode but that of INIT touches CFG. -/
theorem sameCfg_pseudocode {i : Instr} (s : State) (h : Instr.isInit i = false) : SameCfg s (pseudocode i s) := by
  cases i
  case nop | clear | absorb | final | squeeze | permute | ethaddr | eip55 => exact ⟨rfl, rfl, rfl, rfl⟩
  -- The other eight are the INIT commands.
  all_goals cases h

/-- No command but INIT writes CFG. -/
theorem sameCfg_exec {i : Instr} {s t : State} (hi : Instr.isInit i = false) (h : exec i s = .next t) : SameCfg s t := by
  rcases exec_inv h with ⟨-, rfl⟩ | ⟨code, rfl⟩
  · exact sameCfg_pseudocode s hi
  · exact SameCfg.refl s

/-- A frame of a command's pseudocode that an error meets too is a frame of the command: DATA. -/
theorem dataRead_exec {i : Instr} {s t : State} {a : Nat} (hbody : (pseudocode i s).dataRead a = s.dataRead a)
    (h : exec i s = .next t) : t.dataRead a = s.dataRead a := by
  rcases exec_inv h with ⟨-, rfl⟩ | ⟨code, rfl⟩
  · exact hbody
  · rfl

/-- Settles O27: NOP does nothing, CLEAR writes the sponge fields, PERMUTE the lanes. -/
theorem laneCommandFrame : Obligations.LaneCommandFrame := by
  intro i s t hi h
  have hinit : Instr.isInit i = false := by rcases hi with rfl | rfl | rfl <;> rfl
  obtain ⟨hrate, hpad, hvariant, houtlen⟩ := sameCfg_exec hinit h
  refine ⟨hrate, hpad, hvariant, houtlen, fun a => dataRead_exec ?_ h, ?_⟩
  · rcases hi with rfl | rfl | rfl <;> rfl
  · rcases exec_inv h with ⟨-, rfl⟩ | ⟨code, rfl⟩
    · refine ⟨fun hnop => by rw [hnop]; rfl, fun hclear => ?_⟩
      rcases hi with rfl | rfl | rfl
      · exact ⟨rfl, rfl, rfl⟩
      · exact absurd rfl hclear
      · exact ⟨rfl, rfl, rfl⟩
    · exact ⟨fun _ => rfl, fun _ => ⟨rfl, rfl, rfl⟩⟩

/-- The pseudocode of every INIT command opens a sponge (R180). -/
theorem pseudocode_of_isInit {i : Instr} (s : State) (h : Instr.isInit i = true) :
    ∃ v r p n, pseudocode i s = s.openSponge v r p n := by
  cases i
  case nop | clear | absorb | final | squeeze | permute | ethaddr | eip55 => cases h
  all_goals exact ⟨_, _, _, _, rfl⟩

/-- Settles O28: opening a sponge leaves DATA alone. -/
theorem initFrame : Obligations.InitFrame := by
  intro i s t hi h a
  obtain ⟨v, r, p, n, hbody⟩ := pseudocode_of_isInit s hi
  exact dataRead_exec (by rw [hbody]; rfl) h

/-- Settles O29: ABSORB writes lanes and POS, FINAL also OUTCNT and PHASE. -/
theorem absorbFinalFrame : Obligations.AbsorbFinalFrame := by
  intro i s t hi h
  have hinit : Instr.isInit i = false := by rcases hi with ⟨off, len, rfl⟩ | rfl <;> rfl
  obtain ⟨hrate, hpad, hvariant, houtlen⟩ := sameCfg_exec hinit h
  refine ⟨hrate, hpad, hvariant, houtlen, fun a => dataRead_exec ?_ h, fun hfinal => ?_⟩
  · rcases hi with ⟨off, len, rfl⟩ | rfl <;> rfl
  · obtain ⟨off, len, rfl⟩ := hi.resolve_right hfinal
    rcases exec_inv h with ⟨-, rfl⟩ | ⟨code, rfl⟩ <;> exact ⟨rfl, rfl⟩

/-- Settles O30: the bytes SQUEEZE writes are those of its range. -/
theorem squeezeFrame : Obligations.SqueezeFrame := by
  intro off len s t h
  obtain ⟨hrate, hpad, hvariant, houtlen⟩ := sameCfg_exec rfl h
  refine ⟨hrate, hpad, hvariant, houtlen, ?_, fun a ha => dataRead_exec ?_ h⟩
  · rcases exec_inv h with ⟨-, rfl⟩ | ⟨code, rfl⟩ <;> rfl
  · exact (dataRead_squeezeBody off len s a).trans (if_neg ha)

/-- With a text of 40 hex characters, EIP55 works on the 20 bytes the text spells (R213). -/
theorem length_hexDecode_dataBytes {s : State} {off : Nat} (h : s.notHex off = false) :
    ((hexDecode (s.dataBytes off 40)).getD []).length = 20 := by
  unfold State.notHex at h
  cases hd : hexDecode (s.dataBytes off 40) with
  | none => simp [hd] at h
  | some raw =>
    have hlen := length_hexDecode hd
    rw [State.length_dataBytes] at hlen
    simp only [Option.getD_some]
    omega

/-- ETHADDR and EIP55 write 20 raw bytes and their text (R222). -/
theorem address_pseudocode {i : Instr} {s : State} (hi : (∃ off len, i = .ethaddr off len) ∨ ∃ off len, i = .eip55 off len)
    (hok : expectedError i s = .ok) : ∃ raw, raw.length = 20 ∧ pseudocode i s = addressResult raw s := by
  rcases hi with ⟨off, len, rfl⟩ | ⟨off, len, rfl⟩
  · exact ⟨_, length_rawAddress _, rfl⟩
  · obtain ⟨-, -, -, hhex⟩ := (pass_eip55_iff off len s).1 hok
    exact ⟨_, length_hexDecode_dataBytes hhex, rfl⟩

/-- Settles O31: both commands write the 62 bytes of the result area. -/
theorem addressFrame : Obligations.AddressFrame := by
  intro i s t hi h
  have hinit : Instr.isInit i = false := by rcases hi with ⟨off, len, rfl⟩ | ⟨off, len, rfl⟩ <;> rfl
  obtain ⟨hrate, hpad, hvariant, houtlen⟩ := sameCfg_exec hinit h
  refine ⟨hrate, hpad, hvariant, houtlen, fun a ha => ?_⟩
  rcases exec_inv h with ⟨hok, rfl⟩ | ⟨code, rfl⟩
  · obtain ⟨raw, hraw, hbody⟩ := address_pseudocode hi hok
    rw [hbody, State.dataRead_succeeded, dataRead_addressResult s hraw, if_neg (by omega), if_neg (by omega)]
  · rfl

end Sys2Proof.Machine
end

section
/-! The invariant of the block (10_state.md R55): one lemma for each way a step changes the state. -/

namespace Sys2Proof.Machine

/-- Settles O33: after reset every bound is 0 or speaks of another phase. -/
theorem resetMeetsInvariant : Obligations.ResetMeetsInvariant :=
  ⟨fun _ => ⟨rfl, rfl⟩, nofun, nofun, fun h => absurd rfl h, nofun, ⟨Nat.zero_le _, rfl⟩, fun _ => rfl, rfl⟩

theorem State.Inv.succeeded {s : State} (h : s.Inv) : s.succeeded.Inv :=
  ⟨h.idle, h.absorbing, h.squeezing, h.counted, h.oneBlock, h.config, nofun, h.canonical⟩

theorem State.Inv.failed {s : State} (h : s.Inv) (w : Word) (code : ErrorCode) : (s.failed w code).Inv :=
  ⟨h.idle, h.absorbing, h.squeezing, h.counted, h.oneBlock, h.config, nofun, h.canonical⟩

theorem State.Inv.keccakF {s : State} (h : s.Inv) : s.keccakF.Inv :=
  ⟨h.idle, h.absorbing, h.squeezing, h.counted, h.oneBlock, h.config, h.notDone, h.canonical⟩

theorem State.Inv.toIdle {s : State} (h : s.Inv) : s.toIdle.Inv :=
  ⟨fun _ => ⟨rfl, rfl⟩, nofun, nofun, fun _ => Nat.zero_le _, nofun, h.config, h.notDone, h.canonical⟩

/-- An INIT opens a sponge with a legal RATE (R180, R181). -/
theorem State.Inv.openSponge {s : State} (h : s.Inv) {v : Variant} {r : BitVec 8} {p : PadRule} {n : BitVec 8}
    (hlow : 1 ≤ r.toNat) (hhigh : r.toNat ≤ 199) (hcfg : (s.openSponge v r p n).cfgOk) : (s.openSponge v r p n).Inv :=
  ⟨nofun, fun _ => ⟨hlow, hhigh, Nat.zero_le _⟩, nofun, fun _ => Nat.zero_le _, nofun, hcfg, h.notDone, h.canonical⟩

/-- Replacing the DATA memory by one in canonical form. -/
theorem State.Inv.withData {s : State} (h : s.Inv) {m : Memory} (hm : m.wf = true) : State.Inv { s with data := m } :=
  ⟨h.idle, h.absorbing, h.squeezing, h.counted, h.oneBlock, h.config, h.notDone, hm⟩

theorem State.Inv.absorbBody {s : State} (h : s.Inv) (hphase : s.phase = .absorb) (off len : Nat) : (absorbBody off len s).Inv := by
  obtain ⟨hlow, hhigh, hpos⟩ := h.absorbing hphase
  have hend := absorbBytes_pos s.rate (s.dataBytes off len) s.point hlow (show s.pos.toNat < s.rate.toNat by omega)
  refine ⟨fun hidle => ?_, fun _ => ⟨hlow, hhigh, Nat.le_sub_one_of_lt hend⟩, fun hsqueeze => ?_, h.counted, fun hsqueeze => ?_, h.config,
    h.notDone, h.canonical⟩
  · exact nomatch hphase.symm.trans hidle
  · exact nomatch hphase.symm.trans hsqueeze
  · exact nomatch hphase.symm.trans hsqueeze

theorem State.Inv.finalBody {s : State} (h : s.Inv) (hphase : s.phase = .absorb) : (finalBody s).Inv := by
  obtain ⟨hlow, hhigh, -⟩ := h.absorbing hphase
  exact ⟨nofun, nofun, fun _ => ⟨hlow, hhigh, Nat.zero_le _⟩, fun _ => Nat.zero_le _, fun _ _ => rfl, h.config, h.notDone, h.canonical⟩

/-- The fixed output length of a preset fits one block (R171, R193). -/
theorem State.outlen_le_rate {s : State} (h : s.cfgOk) (hfixed : s.outlen ≠ 0) : s.outlen.toNat ≤ s.rate.toNat := by
  unfold State.cfgOk at h
  split at h
  case h_1 rate pad outlen hrow =>
    obtain ⟨hrate, -, houtlen⟩ := h
    rw [hrate, houtlen]
    cases hv : s.variant <;> rw [hv] at hrow <;> cases hrow <;> decide
  case h_2 => exact absurd h.2 hfixed

/-- OUTCNT does not wrap while OUTLEN bounds it (R37, R192). -/
theorem State.outcnt_add_of_fits {s : State} {len : Nat} (h : s.outcnt.toNat + len ≤ s.outlen.toNat) :
    (s.outcnt + BitVec.ofNat 32 len).toNat = s.outcnt.toNat + len := by
  have houtlen := s.outlen.isLt
  rw [BitVec.toNat_add, BitVec.toNat_ofNat]
  omega

/-- Inside a fixed output length SQUEEZE stays in the one block (R193): POS counts with OUTCNT. -/
theorem State.Inv.squeezeBytes_fixed {s : State} (h : s.Inv) (hphase : s.phase = .squeeze) (hfixed : s.outlen ≠ 0) {len : Nat}
    (hfits : s.outcnt.toNat + len ≤ s.outlen.toNat) : squeezeBytes s.rate len s.point =
      ((List.range len).map fun k => s.lanes.byte (s.outcnt.toNat + k), ⟨s.lanes, s.pos + BitVec.ofNat 8 len⟩) := by
  have hpos := h.oneBlock hphase hfixed
  have hrate := State.outlen_le_rate h.config hfixed
  rw [squeezeBytes_inBlock s.rate len s.point (by change s.pos.toNat + len ≤ _; omega)]
  simp only [State.point, hpos]

theorem State.Inv.squeezeBody {s : State} (h : s.Inv) (hphase : s.phase = .squeeze) {off len : Nat} (hrange : off + len ≤ 256)
    (hfits : s.outlen ≠ 0 → s.outcnt.toNat + len ≤ s.outlen.toNat) : (squeezeBody off len s).Inv := by
  obtain ⟨hlow, hhigh, hpos⟩ := h.squeezing hphase
  refine ⟨fun hidle => ?_, fun habsorb => ?_, fun _ => ⟨hlow, hhigh, squeezeBytes_pos s.rate len s.point hlow hpos⟩, fun hfixed => ?_,
    fun _ hfixed => ?_, h.config, h.notDone, Memory.wf_writeBytes _ h.canonical (by rwa [length_squeezeBytes])⟩
  · exact nomatch hphase.symm.trans hidle
  · exact nomatch hphase.symm.trans habsorb
  · rw [squeezeBody_outcnt, squeezeBody_outlen, State.outcnt_add_of_fits (hfits hfixed)]
    exact hfits hfixed
  · have hrate := State.outlen_le_rate h.config hfixed
    have hcount := h.oneBlock hphase hfixed
    have hfit := hfits hfixed
    rw [squeezeBody_outcnt, State.outcnt_add_of_fits hfit, squeezeBody_pos, h.squeezeBytes_fixed hphase hfixed hfit,
      BitVec.toNat_add, BitVec.toNat_ofNat]
    omega

/-- The result area (R222) is inside DATA. -/
theorem State.Inv.addressResult {s : State} (h : s.Inv) {raw : List Byte} (hraw : raw.length = 20) : (addressResult raw s).Inv :=
  (h.withData (Memory.wf_writeBytes _ (Memory.wf_writeBytes _ h.canonical (by omega)) (by simp))).toIdle

/-- The pseudocode of every command whose checks pass keeps the invariant. -/
theorem State.Inv.pseudocode {s : State} (h : s.Inv) {i : Instr} (hpass : expectedError i s = .ok) : (pseudocode i s).Inv := by
  cases i
  case nop => exact h
  case clear => exact h.toIdle
  case init rate pad =>
    obtain ⟨hlow, hhigh, -⟩ := (pass_init_iff rate pad s).1 hpass
    have hrate : (BitVec.ofNat 8 rate).toNat = rate := by rw [BitVec.toNat_ofNat]; omega
    exact h.openSponge (by omega) (by omega) ⟨by change (BitVec.ofNat 8 rate).toNat ≤ 199; omega, rfl⟩
  case absorb off len => exact h.absorbBody ((pass_absorb_iff off len s).1 hpass).1 off len
  case final => exact h.finalBody ((pass_final_iff s).1 hpass)
  case squeeze off len =>
    obtain ⟨hphase, hrange, hfits⟩ := (pass_squeeze_iff off len s).1 hpass
    exact h.squeezeBody hphase hrange hfits
  case permute => exact h.keccakF
  case ethaddr off len => exact h.addressResult (length_rawAddress _)
  case eip55 off len =>
    obtain ⟨-, -, -, hhex⟩ := (pass_eip55_iff off len s).1 hpass
    exact h.addressResult (length_hexDecode_dataBytes hhex)
  -- The presets: each writes its row of R171.
  all_goals exact h.openSponge (by decide) (by decide) ⟨rfl, rfl, rfl⟩

theorem State.Inv.exec {s t : State} (h : s.Inv) {i : Instr} (he : exec i s = .next t) : t.Inv := by
  rcases exec_inv he with ⟨hpass, rfl⟩ | ⟨code, rfl⟩
  · exact (h.pseudocode hpass).succeeded
  · exact h.failed _ _

theorem State.Inv.tick {s : State} (h : s.Inv) : s.tick.Inv :=
  ⟨h.idle, h.absorbing, h.squeezing, h.counted, h.oneBlock, h.config, h.notDone, h.canonical⟩

theorem State.Inv.withInputs {s : State} (h : s.Inv) (xs : List Input) : State.Inv { s with inputs := xs } :=
  ⟨h.idle, h.absorbing, h.squeezing, h.counted, h.oneBlock, h.config, h.notDone, h.canonical⟩

theorem State.Inv.respond {s : State} (h : s.Inv) (a : Response) : (s.respond a).Inv :=
  ⟨h.idle, h.absorbing, h.squeezing, h.counted, h.oneBlock, h.config, h.notDone, h.canonical⟩

theorem State.Inv.writeRegister {s : State} (h : s.Inv) (offset : Nat) (v : Word) : (s.writeRegister offset v).Inv := by
  rcases s.writeRegister_cases offset v with ⟨-, hw⟩ | ⟨-, hw⟩ | ⟨-, hw⟩ | hw <;> rw [hw]
  · exact ⟨h.idle, h.absorbing, h.squeezing, h.counted, h.oneBlock, h.config, h.notDone, h.canonical⟩
  · exact ⟨h.idle, h.absorbing, h.squeezing, h.counted, h.oneBlock, h.config, fun hbusy => by simp [h.notDone hbusy], h.canonical⟩
  · exact ⟨h.idle, h.absorbing, h.squeezing, h.counted, h.oneBlock, h.config, fun _ => rfl, h.canonical⟩
  · exact h

theorem State.Inv.windowFrame {s t : State} (h : s.Inv) (hf : WindowFrame s t) : t.Inv := by
  refine ⟨?_, ?_, ?_, ?_, ?_, ?_, ?_, hf.canonical h.canonical⟩
  · rw [hf.phase, hf.pos, hf.outcnt]; exact h.idle
  · rw [hf.phase, hf.rate, hf.pos]; exact h.absorbing
  · rw [hf.phase, hf.rate, hf.pos]; exact h.squeezing
  · rw [hf.outlen, hf.outcnt]; exact h.counted
  · rw [hf.phase, hf.outlen, hf.pos, hf.outcnt]; exact h.oneBlock
  · rw [State.cfgOk, hf.variant, hf.rate, hf.pad, hf.outlen]; exact h.config
  · rw [hf.held, hf.done]; exact h.notDone

theorem State.Inv.perform {s : State} (h : s.Inv) (r : Request) : (s.perform r).Inv := by
  rcases s.perform_cases r with ⟨a, hp, -⟩ | ⟨v, -, -, -, hp⟩ | ⟨v, -, -, -, hp⟩ <;> rw [hp]
  · exact h.respond a
  · exact (h.writeRegister _ v).respond _
  · exact (h.windowFrame (s.writeBytes_frame _ _ _)).respond _

/-- `rst` gives the reset values whatever the engine was doing. -/
theorem State.inv_applyReset (s : State) (bs : List Request) (xs : List Input) : (s.applyReset bs xs).Inv :=
  have h := resetMeetsInvariant
  ⟨h.idle, h.absorbing, h.squeezing, h.counted, h.oneBlock, h.config, h.notDone, h.canonical⟩

theorem State.Inv.waitStep {s : State} (h : s.Inv) : s.waitStep.Inv := by
  rcases s.waitStep_cases with hs | ⟨b, a, -, hs⟩ | ⟨r, xs, -, -, -, hs⟩ <;> rw [hs]
  · exact h.tick
  · exact State.inv_applyReset _ _ _
  · exact (h.tick.withInputs xs).perform r

/-- Settles O32: a command that passes its checks, an error, an access and `rst` each keep the invariant. -/
theorem stepKeepsInvariant : Obligations.StepKeepsInvariant := by
  intro s t h hstep
  rcases step_cases s with ⟨w, i, -, -, hs⟩ | ⟨w, e, -, -, hs⟩ | ⟨-, hs⟩ <;> rw [hs] at hstep
  · exact h.exec hstep
  · cases hstep
    rw [State.completeIllegal, State.complete_error _ _ (by decide)]
    exact h.failed _ _
  · cases hstep
    exact h.waitStep

end Sys2Proof.Machine
end

section
/-! Who writes CFG, the lanes and PHASE (10_state.md R34, R35, R38): what a step that runs no command leaves unchanged. -/

namespace Sys2Proof.Machine

/-- What no host access changes: PHASE and CFG (R35, R38). -/
structure AccessFrame (s t : State) : Prop where
  phase : t.phase = s.phase
  cfg : SameCfg s t

theorem State.accessFrame_writeRegister (s : State) (offset : Nat) (v : Word) : AccessFrame s (s.writeRegister offset v) := by
  rcases s.writeRegister_cases offset v with ⟨-, hw⟩ | ⟨-, hw⟩ | ⟨-, hw⟩ | hw <;> rw [hw]
  all_goals exact ⟨rfl, rfl, rfl, rfl, rfl⟩

theorem State.accessFrame_perform (s : State) (r : Request) : AccessFrame s (s.perform r) := by
  rcases s.perform_cases r with ⟨a, hp, -⟩ | ⟨v, -, -, -, hp⟩ | ⟨v, -, -, -, hp⟩ <;> rw [hp]
  · exact ⟨rfl, rfl, rfl, rfl, rfl⟩
  · have hf := s.accessFrame_writeRegister r.offset.toNat v
    exact ⟨hf.phase, hf.cfg⟩
  · have hf := s.writeBytes_frame r.size r.offset.toNat v.toNat
    exact ⟨hf.phase, hf.rate, hf.pad, hf.variant, hf.outlen⟩

/-- A step that runs no command takes `rst` or leaves PHASE and CFG alone. -/
theorem State.waitStep_frame (s : State) :
    (Input.reset ∈ s.inputs ∧ s.waitStep.resets = s.resets + 1 ∧ s.waitStep.phase = .idle) ∨ AccessFrame s s.waitStep := by
  rcases s.waitStep_cases with hs | ⟨b, a, hmem, hs⟩ | ⟨r, xs, -, -, -, hs⟩ <;> rw [hs]
  · exact .inr ⟨rfl, rfl, rfl, rfl, rfl⟩
  · exact .inl ⟨hmem, rfl, rfl⟩
  · have hf := State.accessFrame_perform { s.tick with inputs := xs } r
    exact .inr ⟨hf.phase, hf.cfg⟩

/-- Settles O34: neither an access nor an illegal word touches CFG, nor does any command but INIT. -/
theorem configurationWriters : Obligations.ConfigurationWriters := by
  intro s t hstep hcfg
  rcases step_cases s with ⟨w, i, hready, hd, hs⟩ | ⟨w, e, -, -, hs⟩ | ⟨-, hs⟩ <;> rw [hs] at hstep
  · refine .inr ⟨w, i, hready, hd, ?_⟩
    by_contra hinit
    exact hcfg (sameCfg_exec (Bool.not_eq_true _ ▸ hinit) hstep)
  · cases hstep
    exact absurd (SameCfg.refl s) hcfg
  · cases hstep
    rcases s.waitStep_frame with ⟨hmem, hresets, -⟩ | hf
    · exact .inl ⟨hmem, hresets⟩
    · exact absurd hf.cfg hcfg

theorem State.lanes_writeRegister (s : State) (offset : Nat) (v : Word) : (s.writeRegister offset v).lanes = s.lanes := by
  rcases s.writeRegister_cases offset v with ⟨-, hw⟩ | ⟨-, hw⟩ | ⟨-, hw⟩ | hw <;> rw [hw] <;> rfl

/-- A write behind the STATE window leaves the lanes alone (R72, R79). -/
theorem State.lanes_writeBytes_behind (size : Nat) (s : State) (offset v : Nat) (h : 0x1C8 ≤ offset) :
    (s.writeBytes offset v size).lanes = s.lanes := by
  induction size generalizing s offset v with
  | zero => rfl
  | succ n ih =>
    rw [State.writeBytes, ih _ _ _ (by omega)]
    rcases s.writeByte_cases offset (BitVec.ofNat 8 v) with ⟨_, hu, -⟩ | ⟨-, -, hw⟩ | hw
    · omega
    · rw [hw]
    · rw [hw]

/-- An access changes the lanes only as a write to the STATE window in IDLE (R78). -/
theorem State.lanes_perform {s : State} {r : Request} (h : (s.perform r).lanes ≠ s.lanes) :
    s.phase = .idle ∧ ∃ v, r.legal = true ∧ r.op = .write v ∧ 0x100 ≤ r.offset.toNat ∧ r.offset.toNat < 0x1C8 ∧
      (s.perform r).responses = s.responses ++ [⟨r.agent, false, 0⟩] := by
  rcases s.perform_cases r with ⟨a, hp, -⟩ | ⟨v, -, -, -, hp⟩ | ⟨v, hlegal, hop, hlow, hp⟩ <;> rw [hp, State.respond_lanes] at h
  · exact absurd rfl h
  · exact absurd (s.lanes_writeRegister _ v) h
  · have hf := s.writeBytes_frame r.size r.offset.toNat v.toNat
    have hidle : s.phase = .idle := by
      by_contra hphase
      exact h (hf.lanes hphase)
    have hhigh : r.offset.toNat < 0x1C8 := by
      by_contra hbehind
      exact h (State.lanes_writeBytes_behind _ _ _ _ (by omega))
    exact ⟨hidle, v, hlegal, hop, hlow, hhigh, by rw [hp, State.respond_responses, hf.responses]⟩

theorem lanes_exec_nop {s t : State} (h : exec .nop s = .next t) : t.lanes = s.lanes := by
  rcases exec_inv h with ⟨-, rfl⟩ | ⟨code, rfl⟩ <;> rfl

/-- Settles O35: of the accesses only a write to the open STATE window changes a lane. -/
theorem laneFileWriters : Obligations.LaneFileWriters := by
  intro s t hstep hlanes
  rcases step_cases s with ⟨w, i, hready, hd, hs⟩ | ⟨w, e, -, -, hs⟩ | ⟨-, hs⟩ <;> rw [hs] at hstep
  · refine .inr (.inl ⟨w, i, hready, hd, fun hnop => ?_⟩)
    subst hnop
    exact hlanes (lanes_exec_nop hstep)
  · cases hstep
    exact absurd rfl hlanes
  · cases hstep
    rcases s.waitStep_cases with hs | ⟨b, a, hmem, hs⟩ | ⟨r, xs, -, hmem, -, hs⟩ <;> rw [hs] at hlanes ⊢
    · exact absurd rfl hlanes
    · exact .inl ⟨hmem, rfl⟩
    · obtain ⟨hidle, v, hlegal, hop, hlow, hhigh, hanswer⟩ := State.lanes_perform hlanes
      exact .inr (.inr ⟨hidle, r, v, hmem, hlegal, hop, hlow, hhigh, hanswer⟩)

/-- No pseudocode but that of FINAL leads to SQUEEZE from another phase. -/
theorem eq_final_of_phase_pseudocode {i : Instr} {s : State} (h : (pseudocode i s).phase = .squeeze) (hs : s.phase ≠ .squeeze) :
    i = .final := by
  cases i
  case final => rfl
  case nop | absorb | squeeze | permute => exact absurd h hs
  all_goals cases h

/-- Settles O36: FINAL alone has PHASE SQUEEZE as its result, and its check asks for ABSORB. -/
theorem squeezeEnteredByFinal : Obligations.SqueezeEnteredByFinal := by
  intro s t hstep hsqueeze hbefore
  rcases step_cases s with ⟨w, i, hready, hd, hs⟩ | ⟨w, e, -, -, hs⟩ | ⟨-, hs⟩ <;> rw [hs] at hstep
  · rcases exec_inv hstep with ⟨hpass, rfl⟩ | ⟨code, rfl⟩
    · have hfinal := eq_final_of_phase_pseudocode hsqueeze hbefore
      subst hfinal
      rw [encode_of_decode hd]
      exact ⟨(pass_final_iff s).1 hpass, hready⟩
    · exact absurd hsqueeze hbefore
  · cases hstep
    exact absurd hsqueeze hbefore
  · cases hstep
    rcases s.waitStep_frame with ⟨-, -, hidle⟩ | hf
    · exact nomatch hidle.symm.trans hsqueeze
    · exact absurd (hf.phase.symm.trans hsqueeze) hbefore

end Sys2Proof.Machine
end

section
/-! While a sponge is open the lanes are hidden (10_state.md R33, 20_memory.md R78): every access does the same for any lanes. -/

namespace Sys2Proof.Machine

/-- The same state with other lanes. -/
def State.withLanes (s : State) (A : Lanes) : State := { s with lanes := A }

theorem State.readByte_withLanes {s : State} (h : s.phase ≠ .idle) (A : Lanes) (offset : Nat) :
    (s.withLanes A).readByte offset = s.readByte offset := by
  have hA : (s.withLanes A).phase ≠ .idle := h
  simp only [State.readByte, if_neg h, if_neg hA]
  rfl

theorem State.busRead_withLanes {s : State} (h : s.phase ≠ .idle) (A : Lanes) (offset size : Nat) :
    (s.withLanes A).busRead offset size = s.busRead offset size := by
  simp only [State.busRead, State.readByte_withLanes h]
  rfl

theorem State.writeByte_withLanes {s : State} (h : s.phase ≠ .idle) (A : Lanes) (offset : Nat) (b : Byte) :
    (s.withLanes A).writeByte offset b = (s.writeByte offset b).withLanes A := by
  have hA : (s.withLanes A).phase ≠ .idle := h
  simp only [State.writeByte, if_neg h, if_neg hA]
  split
  · rfl
  · split <;> rfl

theorem State.writeBytes_withLanes {s : State} (h : s.phase ≠ .idle) (A : Lanes) (offset v size : Nat) :
    (s.withLanes A).writeBytes offset v size = (s.writeBytes offset v size).withLanes A := by
  induction size generalizing s offset v with
  | zero => rfl
  | succ n ih =>
    have hphase : (s.writeByte offset (BitVec.ofNat 8 v)).phase ≠ .idle := by rwa [(s.writeByte_frame offset _).phase]
    rw [State.writeBytes, State.writeByte_withLanes h, ih hphase]
    rfl

theorem State.writeRegister_withLanes (s : State) (A : Lanes) (offset : Nat) (v : Word) :
    (s.withLanes A).writeRegister offset v = (s.writeRegister offset v).withLanes A := by
  unfold State.writeRegister
  repeat' split
  all_goals rfl

theorem State.busWrite_withLanes {s : State} (h : s.phase ≠ .idle) (A : Lanes) (offset size : Nat) (v : Word) :
    (s.withLanes A).busWrite offset size v = (s.busWrite offset size v).withLanes A := by
  unfold State.busWrite
  split
  · exact s.writeRegister_withLanes A offset v
  · exact State.writeBytes_withLanes h A offset v.toNat size

theorem State.perform_withLanes {s : State} (h : s.phase ≠ .idle) (A : Lanes) (r : Request) :
    (s.withLanes A).perform r = (s.perform r).withLanes A := by
  unfold State.perform
  split
  · cases r.op with
    | read => simp only [State.busRead_withLanes h]; rfl
    | write v => simp only [State.busWrite_withLanes h]; rfl
  · rfl

/-- Which input is served does not depend on the lanes, and the access served commutes with replacing them. -/
theorem State.serve_withLanes {s : State} (h : s.phase ≠ .idle) (hreset : Input.reset ∉ s.inputs) (A : Lanes) :
    (s.withLanes A).serve = s.serve.withLanes A := by
  cases hc : chooseInput s.busy s.inputs with
  | none => rw [State.serve_of_none hc, State.serve_of_none (s := s.withLanes A) hc]
  | some c =>
    obtain ⟨bs, x, xs⟩ := c
    cases x with
    | reset => exact absurd (chooseInput_mem hc).1 hreset
    | access r =>
      rw [State.serve_of_access hc, State.serve_of_access (s := s.withLanes A) hc]
      exact State.perform_withLanes (s := { s with inputs := bs.map .access ++ xs }) h A r

theorem State.waitStep_withLanes {s : State} (h : s.phase ≠ .idle) (hreset : Input.reset ∉ s.inputs) (A : Lanes) :
    (s.withLanes A).waitStep = s.waitStep.withLanes A :=
  State.serve_withLanes (s := s.tick) h hreset A

/-- Settles O37: the step commutes with replacing the lanes; replacing them by themselves shows that it keeps them. -/
theorem openSpongeIsHidden : Obligations.OpenSpongeIsHidden := by
  intro s t A hphase hcommand hreset hstep
  have hnot : ∀ w, ¬s.Ready w := fun w => hcommand.elim (State.not_ready_of_idle · w) (State.not_ready_of_busy · w)
  have hnotA : ∀ w, ¬(s.withLanes A).Ready w := hnot
  rw [step_of_not_ready hnot] at hstep
  cases hstep
  constructor
  · have hself : s.waitStep = s.waitStep.withLanes s.lanes := State.waitStep_withLanes hphase hreset s.lanes
    rw [hself]
    rfl
  · exact (step_of_not_ready hnotA).trans (congrArg _ (State.waitStep_withLanes hphase hreset A))

end Sys2Proof.Machine
end

section
/-! `rst` (70_reset_and_hazards.md R280, R281), the reset values, and engines side by side (60_exceptions.md R262). -/

namespace Sys2Proof.Machine

/-- U5: the accesses kept at a reset are writes among the held ones, in their order. -/
theorem keptAtReset_sublist (engine reset : Nat) (bs : List Request) (place : Nat) :
    (keptAtReset engine reset place bs).Sublist (bs.filter fun b => decide (b.op ≠ .read)) := by
  induction bs generalizing place with
  | nil => exact List.Sublist.refl _
  | cons b bs ih =>
    cases hop : b.op with
    | read => simpa [keptAtReset, hop] using ih (place + 1)
    | write v =>
      simp only [keptAtReset, hop, List.filter_cons, ne_eq, reduceCtorEq, not_false_eq_true, decide_true, if_true]
      split
      · exact (ih (place + 1)).cons_cons b
      · exact (ih (place + 1)).cons b

/-- U5: a held access is kept or answered, not both. -/
theorem length_kept_add_answers (engine reset : Nat) (bs : List Request) (place : Nat) :
    (keptAtReset engine reset place bs).length + (answersAtReset engine reset place bs).length ≤ bs.length := by
  induction bs generalizing place with
  | nil => exact Nat.zero_le _
  | cons b bs ih =>
    have hrest := ih (place + 1)
    have hanswer : (answersAtReset engine reset place (b :: bs)).length =
        (answerAtReset engine reset place b).isSome.toNat + (answersAtReset engine reset (place + 1) bs).length := by
      simp only [answersAtReset]
      cases answerAtReset engine reset place b <;> simp [Nat.add_comm]
    have hone := Bool.toNat_le (answerAtReset engine reset place b).isSome
    rw [hanswer, List.length_cons]
    cases hop : b.op with
    | read => simp only [keptAtReset, hop]; omega
    | write v =>
      cases hkept : Config.heldWriteAtReset engine reset place with
      | false => simp only [keptAtReset, hop, hkept, Bool.false_eq_true, if_false]; omega
      | true => simp [keptAtReset, answerAtReset, hop, hkept]; omega

theorem chooseInput_reset (busy : Bool) (xs : List Input) : chooseInput busy (.reset :: xs) = some ⟨[], .reset, xs⟩ := by
  simp [chooseInput]

/-- `rst` is chosen when it is the oldest input, or behind held accesses alone. -/
theorem chooseInput_reset_behind_held {busy : Bool} {bs : List Request}
    (h : bs = [] ∨ (busy = true ∧ ∀ b ∈ bs, b.held = true)) (xs : List Input) :
    chooseInput busy (bs.map .access ++ .reset :: xs) = some ⟨bs, .reset, xs⟩ := by
  rcases h with rfl | ⟨rfl, hbs⟩
  · exact chooseInput_reset busy xs
  · simp [chooseInput_heldPrefix hbs, chooseInput_reset]

/-- Settles O59: `rst` is the input chosen, and what it leaves are the reset values. -/
theorem resetInput : Obligations.ResetInput := by
  intro s bs xs hinputs hbs
  have hmem : Input.reset ∈ s.inputs := by simp [hinputs]
  have hchoice : bs = [] ∨ (s.busy = true ∧ ∀ b ∈ bs, b.held = true) :=
    hbs.imp_right fun ⟨hheld, hall⟩ => ⟨(State.busy_eq_true_iff s).2 hheld, fun b hb => b.held_iff.2 (hall b hb)⟩
  have hreset : s.waitStep = s.tick.applyReset bs xs :=
    State.serve_of_reset ((congrArg (chooseInput s.busy) hinputs).trans (chooseInput_reset_behind_held hchoice xs))
  refine ⟨s.waitStep, keptAtReset s.engine s.resets 0 bs, answersAtReset s.engine s.resets 0 bs,
    step_of_not_ready (State.not_ready_of_reset hmem), ?_⟩
  rw [hreset]
  exact ⟨SameEngine.refl _, rfl, rfl, rfl, rfl, keptAtReset_sublist _ _ bs 0, rfl, length_kept_add_answers _ _ bs 0⟩

/-- Settles O58: the values of R54. -/
theorem resetValues : Obligations.ResetValues :=
  ⟨fun i _ => Lanes.lane_zero i, rfl, rfl, rfl, rfl, rfl, rfl, rfl, rfl⟩

/-- Settles O60: a step of engine `k` writes place `k` of the list. -/
theorem otherEnginesUntouched : Obligations.OtherEnginesUntouched := by
  intro p q k j h hjk
  unfold Platform.stepAt at h
  split at h
  · cases h
    rfl
  · split at h
    · cases h
      exact List.getElem?_set_ne (Ne.symm hjk)
    · cases h
    · cases h

end Sys2Proof.Machine
end

section
/-! The steps of Keccak-f[1600], lane by lane, and their tables (40_permutation.md R130 to R140). -/

namespace Sys2Proof.Machine

/-- ROTL64 (R12) is the library's rotation. -/
theorem rotl64_eq_rotateLeft (v : Lane) (n : Nat) : rotl64 v n = v.rotateLeft n := rfl

/-- Lane (x, y) of a lane file built by columns and rows. -/
theorem Lanes.lane_build_xy (f : Nat → Nat → Lane) {x y : Nat} (hx : x < 5) (hy : y < 5) :
    (Lanes.build f).lane (x + 5 * y) = f x y := by
  rw [Lanes.lane_build f (by omega), show (x + 5 * y) % 5 = x by omega, show (x + 5 * y) / 5 = y by omega]

theorem Lanes.xy_of_lt (A : Lanes) {x y : Nat} (hx : x < 5) (hy : y < 5) : A.xy x y = A.lane (x + 5 * y) := by
  rw [Lanes.xy, Nat.mod_eq_of_lt hx, Nat.mod_eq_of_lt hy]

/-- An entry of a table of the five columns. -/
theorem getD_columns (f : Nat → Lane) {x : Nat} (hx : x < 5) : ([0, 1, 2, 3, 4].map f).getD x 0 = f x := by
  match x, hx with
  | 0, _ => rfl
  | 1, _ => rfl
  | 2, _ => rfl
  | 3, _ => rfl
  | 4, _ => rfl

theorem columnParity_eq (A : Lanes) {x : Nat} (hx : x < 5) :
    columnParity A x = A.lane x ^^^ A.lane (x + 5) ^^^ A.lane (x + 10) ^^^ A.lane (x + 15) ^^^ A.lane (x + 20) := by
  simp [columnParity, Lanes.xy, Nat.mod_eq_of_lt hx]

/-- The two tables of R132 hold what they are made of. -/
theorem theta_lane (A : Lanes) {x y : Nat} (hx : x < 5) (hy : y < 5) : (theta A).lane (x + 5 * y) =
    A.xy x y ^^^ (columnParity A ((x + 4) % 5) ^^^ rotl64 (columnParity A ((x + 1) % 5)) 1) := by
  have hparity (n : Nat) : [columnParity A 0, columnParity A 1, columnParity A 2, columnParity A 3, columnParity A 4].getD (n % 5) 0 =
      columnParity A (n % 5) := getD_columns (columnParity A) (Nat.mod_lt n (by decide))
  simp only [theta, Lanes.lane_build_xy _ hx hy, getD_columns _ hx, hparity]

/-- Settles O42: `theta_lane` with the column parities written out. -/
theorem thetaLanes : Obligations.ThetaLanes := by
  intro A x y hx hy
  rw [theta_lane A hx hy, Lanes.xy_of_lt A hx hy, columnParity_eq A (Nat.mod_lt _ (by decide)),
    columnParity_eq A (Nat.mod_lt _ (by decide)), rotl64_eq_rotateLeft]

theorem rho_lane (A : Lanes) {x y : Nat} (hx : x < 5) (hy : y < 5) :
    (rho A).lane (x + 5 * y) = BitVec.rotateLeft (A.lane (x + 5 * y)) (rhoOffsets.getD (x + 5 * y) 0) := by
  rw [rho, Lanes.lane_build_xy _ hx hy, Lanes.xy_of_lt A hx hy, rotl64_eq_rotateLeft]

/-- R135, forward: the model's inverse map undoes (x, y) to (y, 2x + 3y). -/
theorem piStep_lane (A : Lanes) {x y : Nat} (hx : x < 5) (hy : y < 5) :
    (piStep A).lane (y + 5 * ((2 * x + 3 * y) % 5)) = A.lane (x + 5 * y) := by
  rw [piStep, Lanes.lane_build_xy _ hy (Nat.mod_lt _ (by decide)), Lanes.xy,
    show (y + 3 * ((2 * x + 3 * y) % 5)) % 5 = x by omega, Nat.mod_eq_of_lt hy]

theorem chi_lane (A : Lanes) {x y : Nat} (hx : x < 5) (hy : y < 5) : (chi A).lane (x + 5 * y) =
    A.lane (x + 5 * y) ^^^ (~~~A.lane ((x + 1) % 5 + 5 * y) &&& A.lane ((x + 2) % 5 + 5 * y)) := by
  rw [chi, Lanes.lane_build_xy _ hx hy, Lanes.xy_of_lt A hx hy, Lanes.xy, Lanes.xy, Nat.mod_eq_of_lt hy]

theorem iota_lane (A : Lanes) (ir i : Nat) : (iota A ir).lane i = if i = 0 then A.lane 0 ^^^ roundConstants.getD ir 0 else A.lane i :=
  Lanes.lane_set A 0 i _ (by decide)

/-- Settles O43: the four lane lemmas. -/
theorem rhoPiChiIotaLanes : Obligations.RhoPiChiIotaLanes := by
  intro A x y hx hy
  refine ⟨rho_lane A hx hy, piStep_lane A hx hy, chi_lane A hx hy, fun ir => ?_⟩
  have hzero : x + 5 * y = 0 ↔ x = 0 ∧ y = 0 := by omega
  simp only [iota_lane, hzero]

/-- Settles O44: the table against 24 steps of the walk. -/
theorem rhoOffsetsGenerated : Obligations.RhoOffsetsGenerated := by
  unfold Obligations.RhoOffsetsGenerated
  decide

/-- Settles O45: the table against the LFSR, bit by bit. -/
theorem roundConstantsGenerated : Obligations.RoundConstantsGenerated := by
  unfold Obligations.RoundConstantsGenerated
  decide +kernel

/-- Settles O46: the combined step is pi after rho. -/
theorem roundsInCombinedForm : Obligations.RoundsInCombinedForm :=
  ⟨fun A => piStep (rho A), fun A _ _ hx hy => (piStep_lane (rho A) hx hy).trans (rho_lane A hx hy), fun _ => rfl⟩

end Sys2Proof.Machine
end

section
/-! Hex text (42_eip55.md R210 to R213): the digits, and that encoding and decoding undo each other up to case. -/

namespace Sys2Proof.Machine

theorem toNat_hexDigit {d : Nat} (h : d < 16) : (hexDigit d).toNat = if d < 10 then 0x30 + d else 0x61 + (d - 10) := by
  rw [hexDigit, BitVec.toNat_ofNat]
  split <;> omega

/-- Everything a hex character can be (R212). -/
theorem hexVal_cases {c : Byte} {h : Nat} (hc : hexVal c = some h) :
    (h < 10 ∧ c.toNat = 0x30 + h) ∨ (10 ≤ h ∧ h < 16 ∧ c.toNat = 0x61 + (h - 10)) ∨ (10 ≤ h ∧ h < 16 ∧ c.toNat = 0x41 + (h - 10)) := by
  unfold hexVal at hc
  split at hc
  · cases hc; omega
  · split at hc
    · cases hc; omega
    · split at hc
      · cases hc; omega
      · cases hc

theorem hexVal_lt {c : Byte} {h : Nat} (hc : hexVal c = some h) : h < 16 := by
  have := hexVal_cases hc
  omega

theorem hexVal_hexDigit {d : Nat} (h : d < 16) : hexVal (hexDigit d) = some d := by
  by_cases hd : d < 10
  · rw [hexVal, toNat_hexDigit h, if_pos hd, if_pos (by omega), Nat.add_sub_cancel_left]
  · rw [hexVal, toNat_hexDigit h, if_neg hd, if_neg (by omega), if_pos (by omega), Nat.add_sub_cancel_left,
      Nat.sub_add_cancel (by omega)]

/-- The digit of a character's value is the character in lower case. -/
theorem hexDigit_hexVal {c : Byte} {h : Nat} (hc : hexVal c = some h) :
    hexDigit h = if 0x41 ≤ c.toNat ∧ c.toNat ≤ 0x46 then c + 0x20 else c := by
  apply BitVec.eq_of_toNat_eq
  rw [toNat_hexDigit (hexVal_lt hc)]
  rcases hexVal_cases hc with ⟨hh, hv⟩ | ⟨hh, -, hv⟩ | ⟨hh, hlt, hv⟩
  · rw [if_pos hh, if_neg (by omega), hv]
  · rw [if_neg (by omega), if_neg (by omega), hv]
  · rw [if_neg (by omega), if_pos (by omega), BitVec.toNat_add, hv]
    change 0x61 + (h - 10) = (0x41 + (h - 10) + 0x20) % 2 ^ 8
    omega

/-- Two characters decode to one byte (R213). -/
theorem hexDecode_cons_cons_iff (c d : Byte) (cs bs : List Byte) : hexDecode (c :: d :: cs) = some bs ↔
    ∃ h l rest, hexVal c = some h ∧ hexVal d = some l ∧ hexDecode cs = some rest ∧ bs = BitVec.ofNat 8 (h * 16 + l) :: rest := by
  rw [hexDecode]
  cases hexVal c <;> cases hexVal d <;> cases hexDecode cs <;> simp [eq_comm]

theorem hexDecode_hexLower (bs : List Byte) : hexDecode (hexLower bs) = some bs := by
  induction bs with
  | nil => rfl
  | cons b bs ih =>
    have hb : BitVec.ofNat 8 (b.toNat / 16 * 16 + b.toNat % 16) = b := by
      rw [Nat.div_add_mod', BitVec.ofNat_toNat, BitVec.setWidth_eq]
    have hlt := b.isLt
    rw [hexLower, hexDecode_cons_cons_iff]
    exact ⟨_, _, bs, hexVal_hexDigit (by omega), hexVal_hexDigit (by omega), ih, by rw [hb]⟩

theorem toNat_ofNat_hexPair {h l : Nat} (hh : h < 16) (hl : l < 16) : (BitVec.ofNat 8 (h * 16 + l)).toNat = h * 16 + l := by
  rw [BitVec.toNat_ofNat]
  omega

/-- The text of decoded bytes is the decoded text in lower case. -/
theorem hexLower_of_hexDecode : ∀ {cs bs : List Byte}, hexDecode cs = some bs →
    hexLower bs = cs.map fun c => if 0x41 ≤ c.toNat ∧ c.toNat ≤ 0x46 then c + 0x20 else c
  | [], bs, hd => by cases hd; rfl
  | [_], bs, hd => by cases hd
  | c :: d :: cs, bs, hd => by
    obtain ⟨h, l, rest, hc, hd', hrest, rfl⟩ := (hexDecode_cons_cons_iff c d cs bs).1 hd
    have hh := hexVal_lt hc
    have hl := hexVal_lt hd'
    rw [hexLower, toNat_ofNat_hexPair hh hl, hexLower_of_hexDecode hrest, List.map_cons, List.map_cons, ← hexDigit_hexVal hc,
      ← hexDigit_hexVal hd', show (h * 16 + l) / 16 = h by omega, show (h * 16 + l) % 16 = l by omega]

/-- Byte `k` of decoded bytes is made of characters `2k` and `2k + 1`. -/
theorem hexDecode_byte : ∀ {cs bs : List Byte}, hexDecode cs = some bs → ∀ k < bs.length,
    ∃ h l, hexVal (cs.getD (2 * k) 0) = some h ∧ hexVal (cs.getD (2 * k + 1) 0) = some l ∧ (bs.getD k 0).toNat = h * 16 + l
  | [], bs, hd, k, hk => by cases hd; cases hk
  | [_], bs, hd, k, hk => by cases hd
  | c :: d :: cs, bs, hd, k, hk => by
    obtain ⟨h, l, rest, hc, hd', hrest, rfl⟩ := (hexDecode_cons_cons_iff c d cs bs).1 hd
    cases k with
    | zero => exact ⟨h, l, hc, hd', toNat_ofNat_hexPair (hexVal_lt hc) (hexVal_lt hd')⟩
    | succ k => exact hexDecode_byte hrest k (Nat.lt_of_succ_lt_succ hk)

/-- Characters `2k` and `2k + 1` of a text are the digits of byte `k`. -/
theorem hexLower_getD (bs : List Byte) : ∀ k < bs.length,
    (hexLower bs).getD (2 * k) 0 = hexDigit ((bs.getD k 0).toNat / 16) ∧
    (hexLower bs).getD (2 * k + 1) 0 = hexDigit ((bs.getD k 0).toNat % 16) := by
  induction bs with
  | nil => exact fun k hk => nomatch hk
  | cons b bs ih =>
    intro k hk
    cases k with
    | zero => exact ⟨rfl, rfl⟩
    | succ k => exact ih k (Nat.lt_of_succ_lt_succ hk)

theorem toNat_hexLower_getD {bs : List Byte} {k d e : Nat} (hk : k < bs.length) (hb : (bs.getD k 0).toNat = d * 16 + e) (he : e < 16) :
    ((hexLower bs).getD (2 * k) 0).toNat = (if d < 10 then 0x30 + d else 0x61 + (d - 10)) ∧
    ((hexLower bs).getD (2 * k + 1) 0).toNat = if e < 10 then 0x30 + e else 0x61 + (e - 10) := by
  have hlt := (bs.getD k 0).isLt
  obtain ⟨hhigh, hlow⟩ := hexLower_getD bs k hk
  rw [hhigh, hlow, hb, show (d * 16 + e) / 16 = d by omega, show (d * 16 + e) % 16 = e by omega]
  exact ⟨toNat_hexDigit (by omega), toNat_hexDigit he⟩

/-- Settles O41: each clause by its lemma above; the values of the characters one by one. -/
theorem hexRoundTrip : Obligations.HexRoundTrip := by
  refine ⟨hexDecode_hexLower, fun cs bs hd => ⟨hexLower_of_hexDecode hd, hexDecode_byte hd⟩,
    fun bs k d e hk hb he => toNat_hexLower_getD hk hb he, by decide, by decide, fun c hc => ?_⟩
  obtain ⟨h, hc⟩ := Option.ne_none_iff_exists'.1 hc
  have := hexVal_cases hc
  omega

end Sys2Proof.Machine
end

section
/-! ETHADDR and EIP55 (42_eip55.md R215 to R228): the result area, and that it depends on the address alone. -/

namespace Sys2Proof.Machine

theorem exec_ethaddr {s : State} {off : Nat} (hphase : s.phase = .idle) (hrange : off + 64 ≤ 256) :
    exec (.ethaddr off 64) s = .next (addressResult (rawAddress (s.dataBytes off 64)) s).succeeded :=
  exec_of_pass ((pass_ethaddr_iff off 64 s).2 ⟨hphase, rfl, hrange⟩)

theorem exec_eip55 {s : State} {off : Nat} {raw : List Byte} (hphase : s.phase = .idle) (hrange : off + 40 ≤ 256)
    (hraw : hexDecode (s.dataBytes off 40) = some raw) : exec (.eip55 off 40) s = .next (addressResult raw s).succeeded := by
  have hhex : s.notHex off = false := by simp [State.notHex, hraw]
  rw [exec_of_pass ((pass_eip55_iff off 40 s).2 ⟨hphase, rfl, hrange, hhex⟩), pseudocode, hraw, Option.getD_some]

/-- The first 20 bytes of the result area (R222). -/
theorem dataRead_result_raw {raw : List Byte} (s : State) (hraw : raw.length = 20) {k : Nat} (hk : k < 20) :
    (addressResult raw s).succeeded.dataRead (0xC0 + k) = raw.getD k 0 := by
  rw [State.dataRead_succeeded, dataRead_addressResult s hraw, if_neg (by omega), if_pos (by omega), Nat.add_sub_cancel_left]

/-- The other 42 bytes of the result area (R222). -/
theorem dataRead_result_text {raw : List Byte} (s : State) (hraw : raw.length = 20) {k : Nat} (hk : k < 42) :
    (addressResult raw s).succeeded.dataRead (0xD4 + k) = (eip55Text raw).getD k 0 := by
  rw [State.dataRead_succeeded, dataRead_addressResult s hraw, if_pos (by omega), Nat.add_sub_cancel_left]

/-- The result area depends on the address alone. -/
theorem dataRead_result_congr {raw : List Byte} (s t : State) (hraw : raw.length = 20) {k : Nat} (hk : k < 62) :
    (addressResult raw s).succeeded.dataRead (0xC0 + k) = (addressResult raw t).succeeded.dataRead (0xC0 + k) := by
  by_cases h : k < 20
  · rw [dataRead_result_raw s hraw h, dataRead_result_raw t hraw h]
  · rw [show 0xC0 + k = 0xD4 + (k - 20) by omega, dataRead_result_text s hraw (by omega), dataRead_result_text t hraw (by omega)]

/-- Settles O20: the address is bytes 12 to 31 of the digest (R215). -/
theorem ethaddrResult : Obligations.EthaddrResult := by
  intro s off hphase hrange
  refine ⟨_, exec_ethaddr hphase hrange, rfl, rfl, rfl, rfl, rfl, fun k hk => ?_, fun k hk =>
    dataRead_result_text s (length_rawAddress _) hk⟩
  rw [dataRead_result_raw s (length_rawAddress _) hk]
  simp [rawAddress, keccak256, List.getD_eq_getElem?_getD]

theorem hexDecode_dataBytes {s : State} {off : Nat} (h : ∀ k < 40, hexVal (s.dataRead (off + k)) ≠ none) :
    ∃ raw, raw.length = 20 ∧ hexDecode (s.dataBytes off 40) = some raw := by
  have hsome := (hexDecode_isSome (n := 20) (cs := s.dataBytes off 40) (by simp)).2 ((s.forall_dataBytes off 40 _).2 h)
  obtain ⟨raw, hraw⟩ := Option.isSome_iff_exists.1 hsome
  have hlen := length_hexDecode hraw
  rw [State.length_dataBytes] at hlen
  exact ⟨raw, by omega, hraw⟩

/-- The nibbles of R216 step 6 are the halves of the hash byte. -/
theorem nibble_eq_extractLsb' {h : List Byte} {i : Nat} {b : Byte} (hb : h[i / 2]? = some b) :
    nibble h i = (if i % 2 = 0 then b.extractLsb' 4 4 else b.extractLsb' 0 4).toNat := by
  have hlt := b.isLt
  rw [nibble, List.getD_eq_getElem?_getD, hb, Option.getD_some]
  split
  · rw [BitVec.extractLsb'_toNat, Nat.shiftRight_eq_div_pow]; omega
  · rw [BitVec.extractLsb'_toNat, Nat.shiftRight_zero]

/-- Character `i` of an EIP-55 text behind "0x" (R216). -/
theorem eip55Text_getD (raw : List Byte) {i : Nat} (hi : i < 40) :
    (eip55Text raw).getD (i + 2) 0 = caseChar ((hexLower raw).getD i 0) (nibble (keccak256 (hexLower raw)) i) := by
  simp [eip55Text, List.getD_eq_getElem?_getD, hi]

/-- Settles O21: the result area by its lemmas, the casing rule character by character. -/
theorem eipFiftyFiveResult : Obligations.EipFiftyFiveResult := by
  refine ⟨fun s off hphase hrange hhex => ?_, fun raw hraw => ⟨length_eip55Text raw, rfl, rfl, fun i hi => ?_⟩⟩
  · obtain ⟨raw, hlen, hraw⟩ := hexDecode_dataBytes hhex
    exact ⟨_, raw, exec_eip55 hphase hrange hraw, rfl, hraw, rfl, rfl, rfl, rfl, fun k hk => dataRead_result_raw s hlen hk,
      fun k hk => dataRead_result_text s hlen hk⟩
  · have hc : (hexLower raw)[i]? = some ((hexLower raw)[i]'(by rw [length_hexLower]; omega)) := List.getElem?_eq_getElem _
    have hb : (keccak256 (hexLower raw))[i / 2]? = some ((keccak256 (hexLower raw))[i / 2]'(by rw [keccak256, length_sponge]; omega)) :=
      List.getElem?_eq_getElem _
    refine ⟨_, _, hc, hb, ?_⟩
    rw [eip55Text_getD raw hi, nibble_eq_extractLsb' hb, List.getD_eq_getElem?_getD, hc, Option.getD_some, caseChar]
    simp only [and_assoc]

/-- Decoding looks at the values of the characters only. -/
theorem hexDecode_congr : ∀ {cs ds : List Byte}, cs.map hexVal = ds.map hexVal → hexDecode cs = hexDecode ds
  | [], [], _ => rfl
  | [_], [_], _ => rfl
  | c :: d :: cs, c' :: d' :: ds, h => by
    simp only [List.map_cons, List.cons.injEq] at h
    obtain ⟨hc, hd, hrest⟩ := h
    rw [hexDecode, hexDecode, hc, hd, hexDecode_congr hrest]
  | [], _ :: _, h => by cases h
  | _ :: _, [], h => by cases h
  | [_], _ :: _ :: _, h => by simp at h
  | _ :: _ :: _, [_], h => by simp at h

/-- Settles O39: both texts decode to one address. -/
theorem casingDoesNotMatter : Obligations.CasingDoesNotMatter := by
  intro s t off off' hs ht hrange hrange' hdigits
  obtain ⟨raw, hlen, hraw⟩ := hexDecode_dataBytes fun k hk => (hdigits k hk).1
  have hsame : (t.dataBytes off' 40).map hexVal = (s.dataBytes off 40).map hexVal := by
    simp only [State.dataBytes, List.map_map]
    exact List.map_congr_left fun k hk => (hdigits k (List.mem_range.1 hk)).2
  have hraw' : hexDecode (t.dataBytes off' 40) = some raw := (hexDecode_congr hsame).trans hraw
  exact ⟨_, _, exec_eip55 hs hrange hraw, exec_eip55 ht hrange' hraw', rfl, rfl, fun k hk => dataRead_result_congr t s hlen hk⟩

/-- Casing a character does not change its value. -/
theorem hexVal_caseChar (c : Byte) (nib : Nat) : hexVal (caseChar c nib) = hexVal c := by
  unfold caseChar
  split
  case isTrue h =>
    have hsub : (c - 0x20).toNat = c.toNat - 0x20 := BitVec.toNat_sub_of_le (BitVec.le_def.2 (by change 0x20 ≤ c.toNat; omega))
    rw [hexVal, hexVal, hsub, if_neg (by omega), if_neg (by omega), if_pos (by omega), if_neg (by omega), if_pos (by omega)]
    congr 1
  case isFalse => rfl

theorem map_getD_range (l : List Byte) : (List.range l.length).map (fun k => l.getD k 0) = l := by
  refine List.ext_getElem (by simp) fun i _ hi => ?_
  simp [List.getD_eq_getElem?_getD, hi]

/-- The 40 characters of an EIP-55 text spell the address it is of (R213, R216). -/
theorem hexDecode_eip55Text {s : State} {raw : List Byte} (hraw : raw.length = 20) :
    hexDecode ((addressResult raw s).succeeded.dataBytes 0xD6 40) = some raw := by
  rw [← hexDecode_hexLower raw]
  apply hexDecode_congr
  have hlen : (hexLower raw).length = 40 := by rw [length_hexLower, hraw]
  rw [← map_getD_range (hexLower raw), hlen, State.dataBytes, List.map_map, List.map_map]
  refine List.map_congr_left fun k hk => ?_
  have hk := List.mem_range.1 hk
  simp only [Function.comp]
  rw [show 0xD6 + k = 0xD4 + (k + 2) by omega, dataRead_result_text s hraw (by omega), eip55Text_getD raw hk, hexVal_caseChar]

/-- Settles O40: the text ETHADDR wrote decodes to the address it is of. -/
theorem recasingAnAddressKeepsIt : Obligations.RecasingAnAddressKeepsIt := by
  intro s off hphase hrange
  have hlen := length_rawAddress (s.dataBytes off 64)
  exact ⟨_, _, exec_ethaddr hphase hrange, exec_eip55 rfl (by decide) (hexDecode_eip55Text hlen), rfl,
    fun k hk => dataRead_result_congr _ s hlen hk⟩

end Sys2Proof.Machine
end

section
/-! ABSORB, FINAL and SQUEEZE (41_sponge.md R183, R186, R190): their loops, and the bytes they work on. -/

namespace Sys2Proof.Machine

theorem exec_absorb {s : State} {off len : Nat} (hphase : s.phase = .absorb) (hrange : off + len ≤ 256) :
    exec (.absorb off len) s = .next (absorbBody off len s).succeeded :=
  exec_of_pass ((pass_absorb_iff off len s).2 ⟨hphase, hrange⟩)

theorem exec_final {s : State} (hphase : s.phase = .absorb) : exec .final s = .next (finalBody s).succeeded :=
  exec_of_pass ((pass_final_iff s).2 hphase)

theorem exec_squeeze {s : State} {off len : Nat} (hphase : s.phase = .squeeze) (hrange : off + len ≤ 256)
    (hfits : s.outlen ≠ 0 → s.outcnt.toNat + len ≤ s.outlen.toNat) :
    exec (.squeeze off len) s = .next (squeezeBody off len s).succeeded :=
  exec_of_pass ((pass_squeeze_iff off len s).2 ⟨hphase, hrange, hfits⟩)

/-- A round of R183 takes one byte of the message. -/
theorem absorbRound_eq (off k : Nat) (s : State) : absorbRound off k s =
    { s with
      lanes := (absorbByte s.rate s.point (s.dataRead (off + k))).lanes
      pos := (absorbByte s.rate s.point (s.dataRead (off + k))).pos } := by
  by_cases h : s.pos + 1 = s.rate
  · rw [show absorbByte s.rate s.point (s.dataRead (off + k)) = ⟨keccakF (s.lanes.xorByte s.pos.toNat (s.dataRead (off + k))), 0⟩ from
      if_pos h]
    exact if_pos h
  · rw [show absorbByte s.rate s.point (s.dataRead (off + k)) = ⟨s.lanes.xorByte s.pos.toNat (s.dataRead (off + k)), s.pos + 1⟩ from
      if_neg h]
    exact if_neg h

/-- ABSORB of one more byte is one more round. -/
theorem absorbBody_succ (off n : Nat) (s : State) : absorbBody off (n + 1) s = absorbRound off n (absorbBody off n s) := by
  rw [absorbRound_eq, State.dataRead_absorbBody]
  simp only [absorbBody, State.dataBytes_succ, absorbBytes_append]
  rfl

theorem absorbBody_eq_absorbLoop (off len : Nat) (s : State) : absorbBody off len s = absorbLoop off len s := by
  induction len with
  | zero => rfl
  | succ n ih => rw [absorbBody_succ, ih, absorbLoop]

/-- Settles O13: by induction on LEN, a round at a time. -/
theorem absorbRunsItsLoop : Obligations.AbsorbRunsItsLoop := by
  intro s off len hphase hrange
  rw [exec_absorb hphase hrange, absorbBody_eq_absorbLoop]

theorem toNat_succ_of_lt {x y : BitVec 8} (h : x.toNat < y.toNat) : (x + 1).toNat = x.toNat + 1 := by
  have hlt := y.isLt
  rw [BitVec.toNat_add]
  change (x.toNat + 1) % 2 ^ 8 = x.toNat + 1
  omega

/-- Bytes absorbed inside the block change POS and the state bytes from POS on (R32, R176). -/
theorem absorbBytes_inBlock {rate : BitVec 8} (hrate : rate.toNat ≤ 199) (bs : List Byte) (p : SpongePoint)
    (h : p.pos.toNat + bs.length < rate.toNat) :
    (absorbBytes rate p bs).pos.toNat = p.pos.toNat + bs.length ∧
    ∀ j, (absorbBytes rate p bs).lanes.byte j =
      if p.pos.toNat ≤ j ∧ j < p.pos.toNat + bs.length then p.lanes.byte j ^^^ bs.getD (j - p.pos.toNat) 0 else p.lanes.byte j := by
  induction bs generalizing p with
  | nil => exact ⟨rfl, fun j => (if_neg (by simp)).symm⟩
  | cons b bs ih =>
    rw [List.length_cons] at h
    have hpos : (p.pos + 1).toNat = p.pos.toNat + 1 := toNat_succ_of_lt (y := rate) (by omega)
    have hbyte : absorbByte rate p b = ⟨p.lanes.xorByte p.pos.toNat b, p.pos + 1⟩ :=
      if_neg fun hend => by rw [hend] at hpos; omega
    obtain ⟨hend, hbytes⟩ := ih ⟨p.lanes.xorByte p.pos.toNat b, p.pos + 1⟩ (by simp only [hpos]; omega)
    simp only [hpos] at hend hbytes
    rw [absorbBytes_cons, hbyte]
    refine ⟨by rw [hend, List.length_cons]; omega, fun j => ?_⟩
    rw [hbytes, Lanes.byte_xorByte _ _ _ _ (by omega), List.length_cons]
    by_cases hfirst : j = p.pos.toNat
    · subst hfirst
      simp
    · by_cases hlater : p.pos.toNat + 1 ≤ j ∧ j < p.pos.toNat + 1 + bs.length
      · rw [if_pos hlater, if_neg hfirst, if_pos (by omega), show j - p.pos.toNat = j - (p.pos.toNat + 1) + 1 by omega,
          List.getD_cons_succ]
      · rw [if_neg hlater, if_neg hfirst, if_neg (by omega)]

theorem State.getD_dataBytes (s : State) (off : Nat) {len k : Nat} (hk : k < len) : (s.dataBytes off len).getD k 0 = s.dataRead (off + k) := by
  simp [State.dataBytes, List.getD_eq_getElem?_getD, hk]

/-- Settles O14: no byte of the range fills the block. -/
theorem absorbInsideBlock : Obligations.AbsorbInsideBlock := by
  intro s off len hphase hrange hblock hrate
  obtain ⟨hpos, hbytes⟩ := absorbBytes_inBlock hrate (s.dataBytes off len) s.point (by rwa [State.length_dataBytes])
  rw [State.length_dataBytes] at hpos hbytes
  refine ⟨_, exec_absorb hphase hrange, hpos, fun j _ => (hbytes j).trans ?_⟩
  change (if s.pos.toNat ≤ j ∧ j < s.pos.toNat + len then s.lanes.byte j ^^^ (s.dataBytes off len).getD (j - s.pos.toNat) 0
    else s.lanes.byte j) = _
  split
  · rw [State.getD_dataBytes s off (by omega)]
  · rfl

/-- The padding changes byte POS and byte RATE - 1 (R174). -/
theorem padLanes_byte {rate : BitVec 8} {p : SpongePoint} (pb : Byte) (hlow : 1 ≤ rate.toNat) (hhigh : rate.toNat ≤ 199)
    (hpos : p.pos.toNat < rate.toNat) (j : Nat) : (padLanes rate pb p).byte j =
      p.lanes.byte j ^^^ (if j = p.pos.toNat then pb else 0) ^^^ (if j = rate.toNat - 1 then 0x80 else 0) := by
  have hxor (i : Nat) (b : Byte) : (if j = i then p.lanes.byte i ^^^ b else p.lanes.byte j) = p.lanes.byte j ^^^ (if j = i then b else 0) := by
    split
    · rename_i h; rw [h]
    · exact BitVec.xor_zero.symm
  rw [padLanes, Lanes.byte_xorByte _ _ _ _ (by omega), Lanes.byte_xorByte _ _ _ _ (by omega), Lanes.byte_xorByte _ _ _ _ (by omega),
    hxor]
  by_cases h : j = rate.toNat - 1
  · subst h; simp [hxor]
  · simp [h]

/-- Settles O15: the lanes before the permutation are `padLanes`. -/
theorem finalPadsAndPermutes : Obligations.FinalPadsAndPermutes := by
  intro s hphase hlow hhigh hpos
  exact ⟨padLanes s.rate s.pad.byte s.point, fun j _ => padLanes_byte (p := s.point) _ hlow hhigh hpos j, exec_final hphase⟩

/-- Settles O16: both XORs of the padding meet in byte RATE - 1. -/
theorem finalOneByteLeft : Obligations.FinalOneByteLeft := by
  intro s hphase hlow hhigh hpos
  refine ⟨padLanes s.rate s.pad.byte s.point, fun j _ => ?_, exec_final hphase⟩
  have hbyte := padLanes_byte (p := s.point) s.pad.byte hlow hhigh (by change s.pos.toNat < _; omega) j
  change _ = s.lanes.byte j ^^^ (if j = s.pos.toNat then _ else _) ^^^ _ at hbyte
  rw [hbyte, hpos]
  by_cases h : j = s.rate.toNat - 1
  · rw [if_pos h, if_pos h, if_pos h, BitVec.xor_assoc]
    cases s.pad <;> rfl
  · rw [if_neg h, if_neg h, if_neg h]
    exact BitVec.xor_zero.trans BitVec.xor_zero

/-- A round of R190 gives one byte of the output. -/
theorem squeezeRound_eq (off k : Nat) (s : State) : squeezeRound off k s =
    { s with
      lanes := (freshBlock s.rate s.point).lanes
      pos := (freshBlock s.rate s.point).pos + 1
      data := s.data.write (off + k) ((freshBlock s.rate s.point).lanes.byte (freshBlock s.rate s.point).pos.toNat)
      outcnt := s.outcnt + 1 } := by
  by_cases h : s.pos = s.rate
  · rw [show freshBlock s.rate s.point = ⟨keccakF s.lanes, 0⟩ from if_pos h]
    simp only [squeezeRound, if_pos h]
  · rw [show freshBlock s.rate s.point = s.point from if_neg h]
    simp only [squeezeRound, if_neg h]
    rfl

/-- SQUEEZE of one more byte is one more round. -/
theorem squeezeBody_succ (off n : Nat) (s : State) : squeezeBody off (n + 1) s = squeezeRound off n (squeezeBody off n s) := by
  have hcount : s.outcnt + BitVec.ofNat 32 (n + 1) = s.outcnt + BitVec.ofNat 32 n + 1 := by
    rw [BitVec.ofNat_add, ← BitVec.add_assoc]
    rfl
  rw [squeezeRound_eq]
  simp only [squeezeBody, squeezeBytes_last, Memory.writeBytes_append, length_squeezeBytes, hcount]
  rfl

theorem squeezeBody_eq_squeezeLoop (off len : Nat) (s : State) : squeezeBody off len s = squeezeLoop off len s := by
  induction len with
  | zero => simp [squeezeBody, squeezeBytes, squeezeLoop, State.point, Memory.writeBytes]
  | succ n ih => rw [squeezeBody_succ, ih, squeezeLoop]

/-- Settles O17: by induction on LEN, a round at a time. -/
theorem squeezeRunsItsLoop : Obligations.SqueezeRunsItsLoop := by
  intro s off len hphase hrange hfits
  rw [exec_squeeze hphase hrange hfits, squeezeBody_eq_squeezeLoop]

/-- Settles O19: by the invariant POS counts with OUTCNT, and the output length fits the block. -/
theorem digestIsOneBlock : Obligations.DigestIsOneBlock := by
  intro s off len hinv hphase hfixed hrange hfits
  have hblock := hinv.squeezeBytes_fixed hphase hfixed hfits
  refine ⟨_, exec_squeeze hphase hrange fun _ => hfits, rfl, ?_, State.outcnt_add_of_fits hfits, fun k hk => ?_⟩
  · rw [State.succeeded_lanes, squeezeBody_lanes, hblock]
  · rw [State.dataRead_succeeded, dataRead_squeezeBody, if_pos (by omega), hblock, Nat.add_sub_cancel_left]
    simp [List.getD_eq_getElem?_getD, hk]

end Sys2Proof.Machine
end

section
/-! A whole sponge (41_sponge.md R175, R179): message and output in any pieces. -/

namespace Sys2Proof.Machine

/-- ABSORB commands one after the other absorb the bytes they read, joined. -/
theorem absorbSession_eq (ins : List Chunk) (s : State) (hphase : s.phase = .absorb) (hrange : ∀ c ∈ ins, c.off + c.len ≤ 256) :
    ∃ t, absorbSession ins s = some t ∧
      t.point = absorbBytes s.rate s.point (ins.flatMap fun c => (c.start s).dataBytes c.off c.len) ∧
      t.phase = .absorb ∧ t.rate = s.rate ∧ t.pad = s.pad ∧ t.outlen = s.outlen := by
  induction ins generalizing s with
  | nil => exact ⟨s, rfl, rfl, hphase, rfl, rfl, rfl⟩
  | cons c cs ih =>
    have hexec : exec (.absorb c.off c.len) (c.start s) = .next (absorbBody c.off c.len (c.start s)).succeeded :=
      exec_absorb hphase (hrange c List.mem_cons_self)
    obtain ⟨t, hsession, hpoint, hrest⟩ := ih (absorbBody c.off c.len (c.start s)).succeeded hphase
      fun d hd => hrange d (List.mem_cons_of_mem _ hd)
    refine ⟨t, ?_, ?_, hrest⟩
    · rw [absorbSession, hexec]
      exact hsession
    · rw [List.flatMap_cons, absorbBytes_append]
      exact hpoint

/-- SQUEEZE leaves its output at its place in DATA. -/
theorem dataBytes_squeezeBody (off len : Nat) (s : State) :
    (squeezeBody off len s).succeeded.dataBytes off len = (squeezeBytes s.rate len s.point).1 := by
  have hlen : (squeezeBytes s.rate len s.point).1.length = len := length_squeezeBytes _ _ _
  conv_rhs => rw [← map_getD_range (squeezeBytes s.rate len s.point).1, hlen]
  refine List.map_congr_left fun k hk => ?_
  have hk := List.mem_range.1 hk
  rw [State.dataRead_succeeded, dataRead_squeezeBody, if_pos (by omega), Nat.add_sub_cancel_left]

/-- SQUEEZE commands one after the other give the output of one. -/
theorem squeezeSession_eq (outs : List Chunk) (s : State) (hphase : s.phase = .squeeze) (hrange : ∀ c ∈ outs, c.off + c.len ≤ 256)
    (hfits : s.outlen ≠ 0 → s.outcnt.toNat + (outs.map Chunk.len).sum ≤ s.outlen.toNat) :
    ∃ t, squeezeSession outs s = some ((squeezeBytes s.rate (outs.map Chunk.len).sum s.point).1, t) := by
  induction outs generalizing s with
  | nil => exact ⟨s, rfl⟩
  | cons c cs ih =>
    rw [List.map_cons, List.sum_cons] at hfits ⊢
    have hfirst : s.outlen ≠ 0 → s.outcnt.toNat + c.len ≤ s.outlen.toNat := fun hfixed => by have := hfits hfixed; omega
    have hexec : exec (.squeeze c.off c.len) (c.start s) = .next (squeezeBody c.off c.len (c.start s)).succeeded :=
      exec_squeeze hphase (hrange c List.mem_cons_self) hfirst
    obtain ⟨t, hsession⟩ := ih (squeezeBody c.off c.len (c.start s)).succeeded hphase
      (fun d hd => hrange d (List.mem_cons_of_mem _ hd)) fun hfixed => by
        have hcount : (squeezeBody c.off c.len (c.start s)).succeeded.outcnt.toNat = s.outcnt.toNat + c.len :=
          State.outcnt_add_of_fits (hfirst hfixed)
        rw [hcount]
        have := hfits hfixed
        change _ ≤ s.outlen.toNat
        omega
    refine ⟨t, ?_⟩
    rw [squeezeSession, hexec]
    simp only [State.succeeded_errcode, if_true, hsession, dataBytes_squeezeBody, squeezeBytes_add]
    rfl

/-- What an INIT that succeeds leaves (R180). -/
theorem exec_isInit_ok {i : Instr} {s t : State} (hi : Instr.isInit i = true) (h : exec i s = .next t) (hok : t.errcode = .ok) :
    t.phase = .absorb ∧ t.point = ⟨Lanes.zero, 0⟩ := by
  rw [exec_eq] at h
  cases h
  by_cases hpass : expectedError i s = .ok
  · obtain ⟨v, r, p, n, hbody⟩ := pseudocode_of_isInit s hi
    rw [if_pos hpass, hbody]
    exact ⟨rfl, rfl⟩
  · rw [if_neg hpass] at hok
    exact absurd hok hpass

/-- Settles O38: the pieces join to the one message and the one output of the reference sponge. -/
theorem splittingDoesNotMatter : Obligations.SplittingDoesNotMatter := by
  intro i s₀ s₁ ins outs hi hinit hok hrange hfits
  obtain ⟨hphase, hpoint⟩ := exec_isInit_ok hi hinit hok
  obtain ⟨s₂, habsorb, hpoint₂, hphase₂, hrate₂, hpad₂, houtlen₂⟩ :=
    absorbSession_eq ins s₁ hphase fun c hc => hrange c (List.mem_append_left _ hc)
  obtain ⟨s₄, hsqueeze⟩ := squeezeSession_eq outs (finalBody s₂).succeeded rfl (fun c hc => hrange c (List.mem_append_right _ hc)) (by
    change s₂.outlen ≠ 0 → 0 + _ ≤ s₂.outlen.toNat
    rwa [houtlen₂, Nat.zero_add])
  refine ⟨s₂, _, s₄, habsorb, exec_final hphase₂, ?_⟩
  have hfinal : (finalBody s₂).succeeded.point = padFinal s₁.rate s₁.pad.byte s₂.point := by rw [← hrate₂, ← hpad₂]; rfl
  have hrate : (finalBody s₂).succeeded.rate = s₁.rate := hrate₂
  rw [hsqueeze, hfinal, hrate, hpoint₂, hpoint, sponge]

end Sys2Proof.Machine
end

section
/-! Host accesses: which are legal (20_memory.md R74, R75), and the registers (10_state.md R40 to R50). -/

namespace Sys2Proof.Machine

theorem Request.legal_iff (r : Request) : r.legal = true ↔
    (r.offset.toNat ≤ 0x0FF ∧ r.size = 4 ∧ 4 ∣ r.offset.toNat) ∨
    (0x100 ≤ r.offset.toNat ∧ (r.size = 1 ∨ (r.size = 2 ∧ 2 ∣ r.offset.toNat) ∨ (r.size = 4 ∧ 4 ∣ r.offset.toNat))) := by
  unfold Request.legal
  split
  · simp only [Bool.and_eq_true, decide_eq_true_eq]
    omega
  · simp only [Bool.and_eq_true, Bool.or_eq_true, decide_eq_true_eq]
    constructor
    · rintro ⟨(hsize | hsize) | hsize, haligned⟩ <;> rw [hsize] at haligned <;> omega
    · rintro (h | ⟨-, hsize | ⟨hsize, haligned⟩ | ⟨hsize, haligned⟩⟩)
      · omega
      all_goals rw [hsize]; omega

theorem State.perform_of_illegal (s : State) {r : Request} (h : r.legal = false) : s.perform r = s.respond ⟨r.agent, true, 0⟩ := by
  simp [State.perform, h]

theorem State.perform_read (s : State) {r : Request} (h : r.legal = true) (hop : r.op = .read) :
    s.perform r = s.respond ⟨r.agent, false, s.busRead r.offset.toNat r.size⟩ := by
  simp [State.perform, h, hop]

theorem State.perform_write (s : State) {r : Request} {v : Word} (h : r.legal = true) (hop : r.op = .write v) :
    s.perform r = (s.busWrite r.offset.toNat r.size v).respond ⟨r.agent, false, 0⟩ := by
  simp [State.perform, h, hop]

/-- Settles O47: the alignment of each size is written out; an access that is not legal is only answered. -/
theorem busErrors : Obligations.BusErrors :=
  fun s r => ⟨r.legal_iff, fun h => s.perform_of_illegal h⟩

theorem State.responses_writeRegister (s : State) (offset : Nat) (v : Word) :
    (s.writeRegister offset v).responses = s.responses := by
  rcases s.writeRegister_cases offset v with ⟨-, hw⟩ | ⟨-, hw⟩ | ⟨-, hw⟩ | hw <;> rw [hw] <;> rfl

theorem State.responses_busWrite (s : State) (offset size : Nat) (v : Word) : (s.busWrite offset size v).responses = s.responses := by
  unfold State.busWrite
  split
  · exact s.responses_writeRegister offset v
  · exact (s.writeBytes_frame size offset v.toNat).responses

/-- Settles O48: a read is answered and does nothing else; a write is answered after what `busWrite` does. -/
theorem readsHaveNoEffect : Obligations.ReadsHaveNoEffect := by
  intro s r
  refine ⟨fun hop => ?_, fun h hop => s.perform_read h hop, fun v h hop => ?_⟩
  · cases h : r.legal with
    | false => exact ⟨_, s.perform_of_illegal h⟩
    | true => exact ⟨_, s.perform_read h hop⟩
  · rw [s.perform_write h hop, State.respond, s.responses_busWrite]

/-- A slice of a word is given by its field. -/
theorem extractLsb'_eq_of_field {w : Word} {lo n : Nat} {v : BitVec n} (h : field w lo n = v.toNat) : w.extractLsb' lo n = v :=
  BitVec.eq_of_toNat_eq ((toNat_extractLsb'_eq_field w lo n).trans h)

/-- A bit of a word is given by its one-bit field. -/
theorem getLsbD_eq_of_field {w : Word} {i : Nat} {b : Bool} (h : field w i 1 = b.toNat) : w.getLsbD i = b := by
  have hbit : w.getLsbD i = decide (field w i 1 = 1) := by rw [BitVec.getLsbD, Nat.testBit_eq_decide_div_mod_eq]; rfl
  rw [hbit, h]
  cases b <;> rfl

theorem ErrorCode.code_lt (e : ErrorCode) : e.code < 2 ^ 4 := by cases e <;> decide

theorem Phase.code_lt (p : Phase) : p.code < 2 ^ 2 := by cases p <;> decide

theorem PadRule.code_lt (p : PadRule) : p.code < 2 ^ 2 := by cases p <;> decide

theorem Variant.code_lt (v : Variant) : v.code < 2 ^ 3 := by cases v <;> decide

/-- The fields of STATUS (R40). -/
theorem State.statusWord_fields (s : State) :
    field s.statusWord 0 1 = s.busy.toNat ∧ field s.statusWord 1 1 = s.done.toNat ∧ field s.statusWord 2 1 = s.err.toNat ∧
    field s.statusWord 3 5 = 0 ∧ field s.statusWord 8 4 = s.errcode.code ∧ field s.statusWord 12 2 = s.phase.code ∧
    field s.statusWord 14 18 = 0 := by
  have hbusy := s.busy.toNat_lt
  have hdone := s.done.toNat_lt
  have herr := s.err.toNat_lt
  have herrcode := s.errcode.code_lt
  have hphase := s.phase.code_lt
  have hword : s.busy.toNat + s.done.toNat * 2 ^ 1 + s.err.toNat * 2 ^ 2 + s.errcode.code * 2 ^ 8 + s.phase.code * 2 ^ 12 < 2 ^ 32 := by
    omega
  simp only [State.statusWord, field_ofNat _ _ _ hword]
  refine ⟨?_, ?_, ?_, ?_, ?_, ?_, ?_⟩ <;> omega

/-- Settles O49: each field of the sum is at its place, for none overflows into the next. -/
theorem statusFields : Obligations.StatusFields := by
  intro s
  obtain ⟨hbusy, hdone, herr, hlow, herrcode, hphase, hhigh⟩ := s.statusWord_fields
  exact ⟨rfl, getLsbD_eq_of_field hbusy, getLsbD_eq_of_field hdone, getLsbD_eq_of_field herr, extractLsb'_eq_of_field hlow,
    extractLsb'_eq_of_field (herrcode.trans (by cases s.errcode <;> rfl)), extractLsb'_eq_of_field (hphase.trans (by cases s.phase <;> rfl)),
    extractLsb'_eq_of_field hhigh⟩

/-- The fields of CFG (R48). -/
theorem State.cfgWord_fields (s : State) :
    field s.cfgWord 0 8 = s.rate.toNat ∧ field s.cfgWord 8 2 = s.pad.code ∧ field s.cfgWord 10 2 = 0 ∧
    field s.cfgWord 12 3 = s.variant.code ∧ field s.cfgWord 15 1 = 0 ∧ field s.cfgWord 16 8 = s.outlen.toNat ∧
    field s.cfgWord 24 8 = 0 := by
  have hrate := s.rate.isLt
  have hpad := s.pad.code_lt
  have hvariant := s.variant.code_lt
  have houtlen := s.outlen.isLt
  have hword : s.rate.toNat + s.pad.code * 2 ^ 8 + s.variant.code * 2 ^ 12 + s.outlen.toNat * 2 ^ 16 < 2 ^ 32 := by omega
  simp only [State.cfgWord, field_ofNat _ _ _ hword]
  refine ⟨?_, ?_, ?_, ?_, ?_, ?_, ?_⟩ <;> omega

/-- Settles O50: each field of the sum is at its place, for none overflows into the next. -/
theorem cfgFields : Obligations.CfgFields := by
  intro s
  obtain ⟨hrate, hpad, hlow, hvariant, hmid, houtlen, hhigh⟩ := s.cfgWord_fields
  exact ⟨rfl, extractLsb'_eq_of_field hrate, extractLsb'_eq_of_field (hpad.trans (by cases s.pad <;> rfl)), extractLsb'_eq_of_field hlow,
    extractLsb'_eq_of_field (hvariant.trans (by cases s.variant <;> rfl)), extractLsb'_eq_of_field hmid, extractLsb'_eq_of_field houtlen,
    extractLsb'_eq_of_field hhigh⟩

theorem State.busRead_of_register (s : State) {offset : Nat} (h : offset < 0x100) (size : Nat) :
    s.busRead offset size = s.readRegister offset := if_pos h

theorem State.busWrite_of_register (s : State) {offset : Nat} (h : offset < 0x100) (size : Nat) (v : Word) :
    s.busWrite offset size v = s.writeRegister offset v := if_pos h

theorem State.busRead_of_window (s : State) {offset : Nat} (h : 0x100 ≤ offset) (size : Nat) :
    s.busRead offset size = BitVec.ofNat 32 (littleEndian ((List.range size).map fun k => s.readByte (offset + k))) :=
  if_neg (Nat.not_lt.2 h)

theorem State.busWrite_of_window (s : State) {offset : Nat} (h : 0x100 ≤ offset) (size : Nat) (v : Word) :
    s.busWrite offset size v = s.writeBytes offset v.toNat size := if_neg (Nat.not_lt.2 h)

/-- The reserved registers read 0 (R50). -/
theorem State.readRegister_reserved (s : State) {offset : Nat} (h : 0x024 ≤ offset) : s.readRegister offset = 0 := by
  unfold State.readRegister
  repeat rw [if_neg (by omega)]

/-- Only CTRL, STATUS and CMD take a write (R49). -/
theorem State.writeRegister_other (s : State) {offset : Nat} (hctrl : offset ≠ 0x008) (hstatus : offset ≠ 0x00C) (hcmd : offset ≠ 0x010)
    (v : Word) : s.writeRegister offset v = s := by
  unfold State.writeRegister
  rw [if_neg hctrl, if_neg hstatus, if_neg hcmd]

theorem State.ctrlWord_fields (s : State) : field s.ctrlWord 0 1 = s.ie.toNat ∧ field s.ctrlWord 1 31 = 0 := by
  have hie := s.ie.toNat_lt
  rw [State.ctrlWord, field_ofNat _ _ _ (by omega), field_ofNat _ _ _ (by omega)]
  omega

theorem State.posWord_fields (s : State) : field s.posWord 0 8 = s.pos.toNat ∧ field s.posWord 8 24 = 0 := by
  have hpos := s.pos.isLt
  simp only [field, State.posWord, BitVec.toNat_setWidth]
  omega

/-- Settles O51: each register by its offset. -/
theorem registerReads : Obligations.RegisterReads := by
  intro s
  obtain ⟨hie, hctrl⟩ := s.ctrlWord_fields
  obtain ⟨hpos, hhigh⟩ := s.posWord_fields
  exact ⟨rfl, rfl, getLsbD_eq_of_field hie, extractLsb'_eq_of_field hctrl, rfl, extractLsb'_eq_of_field hpos,
    extractLsb'_eq_of_field hhigh, rfl, rfl, fun o hlow hhigh => (s.busRead_of_register hhigh 4).trans (s.readRegister_reserved hlow)⟩

theorem and_not_eq_ite (a b : Bool) : (a && !b) = if b then false else a := by
  cases b <;> simp

/-- Settles O52: each register by its offset. -/
theorem registerWrites : Obligations.RegisterWrites := by
  intro s v
  refine ⟨rfl, ?_, ⟨_, _, rfl⟩, fun o ho hctrl hstatus hcmd =>
    (s.busWrite_of_register ho 4 v).trans (s.writeRegister_other hctrl hstatus hcmd v)⟩
  rw [State.busWrite_status, State.writeStatus, and_not_eq_ite, and_not_eq_ite]

end Sys2Proof.Machine
end

section
/-! The windows above the registers, byte by byte (20_memory.md R71, R72, R78, R79; 10_state.md R50). -/

namespace Sys2Proof.Machine

theorem littleEndian_byte (bs : List Byte) (k : Nat) : littleEndian bs / 2 ^ (8 * k) % 2 ^ 8 = (bs.getD k 0).toNat := by
  induction bs generalizing k with
  | nil => simp [littleEndian]
  | cons b bs ih =>
    have hb := b.isLt
    cases k with
    | zero => simp only [littleEndian, List.getD_cons_zero]; omega
    | succ k =>
      rw [List.getD_cons_succ, ← ih k, littleEndian, show 8 * (k + 1) = 8 + 8 * k by omega, Nat.pow_add, ← Nat.div_div_eq_div_mul,
        show (b.toNat + 2 ^ 8 * littleEndian bs) / 2 ^ 8 = littleEndian bs by omega]

theorem littleEndian_lt (bs : List Byte) : littleEndian bs < 2 ^ (8 * bs.length) := by
  induction bs with
  | nil => exact Nat.one_pos
  | cons b bs ih =>
    have hb := b.isLt
    rw [littleEndian, List.length_cons, show 8 * (bs.length + 1) = 8 + 8 * bs.length by omega, Nat.pow_add]
    omega

/-- The bytes of a value, put together again, are the value as far as they go. -/
theorem littleEndian_bytes (n v : Nat) :
    littleEndian ((List.range n).map fun k => BitVec.ofNat 8 (v / 2 ^ (8 * k))) = v % 2 ^ (8 * n) := by
  induction n generalizing v with
  | zero => simp [littleEndian, Nat.mod_one]
  | succ n ih =>
    have hshift (k : Nat) : v / 2 ^ (8 * (k + 1)) = v / 2 ^ 8 / 2 ^ (8 * k) := by
      rw [show 8 * (k + 1) = 8 + 8 * k by omega, Nat.pow_add, Nat.div_div_eq_div_mul]
    rw [List.range_succ_eq_map, List.map_cons, List.map_map, littleEndian]
    simp only [Function.comp_def, Nat.succ_eq_add_one, hshift, ih]
    rw [show 8 * (n + 1) = 8 + 8 * n by omega, Nat.pow_add, Nat.mod_mul, Nat.mul_zero, Nat.pow_zero, Nat.div_one, BitVec.toNat_ofNat]

/-- A byte of a word, as `State.writeBytes` takes it. -/
theorem extractLsb'_eq_ofNat (v : Word) (lo n : Nat) : v.extractLsb' lo n = BitVec.ofNat n (v.toNat / 2 ^ lo) := by
  apply BitVec.eq_of_toNat_eq
  rw [toNat_extractLsb'_eq_field, BitVec.toNat_ofNat, field]

theorem State.littleEndian_window_lt (s : State) (offset : Nat) {n : Nat} (hn : n ≤ 4) :
    littleEndian ((List.range n).map fun k => s.readByte (offset + k)) < 2 ^ (8 * n) ∧ 2 ^ (8 * n) ≤ 2 ^ 32 := by
  have hlt := littleEndian_lt ((List.range n).map fun k => s.readByte (offset + k))
  rw [List.length_map, List.length_range] at hlt
  exact ⟨hlt, Nat.pow_le_pow_right (by decide) (by omega)⟩

theorem State.toNat_busRead (s : State) {offset n : Nat} (h : 0x100 ≤ offset) (hn : n ≤ 4) :
    (s.busRead offset n).toNat = littleEndian ((List.range n).map fun k => s.readByte (offset + k)) := by
  obtain ⟨hlt, hle⟩ := s.littleEndian_window_lt offset hn
  rw [s.busRead_of_window h, BitVec.toNat_ofNat, Nat.mod_eq_of_lt (by omega)]

/-- Byte `k` of a value read is the byte at the offset plus `k` (R71). -/
theorem State.busRead_byte (s : State) {offset n : Nat} (h : 0x100 ≤ offset) (hn : n ≤ 4) {k : Nat} (hk : k < n) :
    (s.busRead offset n).extractLsb' (8 * k) 8 = s.readByte (offset + k) := by
  apply extractLsb'_eq_of_field
  rw [field, s.toNat_busRead h hn, littleEndian_byte]
  simp [List.getD_eq_getElem?_getD, hk]

theorem State.toNat_busRead_lt (s : State) {offset n : Nat} (h : 0x100 ≤ offset) (hn : n ≤ 4) :
    (s.busRead offset n).toNat < 2 ^ (8 * n) := by
  rw [s.toNat_busRead h hn]
  exact (s.littleEndian_window_lt offset hn).1

theorem State.busRead_eq_zero (s : State) {offset n : Nat} (h : 0x100 ≤ offset) (hzero : ∀ k < n, s.readByte (offset + k) = 0) :
    s.busRead offset n = 0 := by
  have hbytes : ((List.range n).map fun k => s.readByte (offset + k)) = (List.range n).map fun k => BitVec.ofNat 8 (0 / 2 ^ (8 * k)) :=
    List.map_congr_left fun k hk => by rw [hzero k (List.mem_range.1 hk), Nat.zero_div]; rfl
  rw [s.busRead_of_window h, hbytes, littleEndian_bytes, Nat.zero_mod]
  rfl

/-- Where no byte write does anything, no write does. -/
theorem State.writeBytes_eq_self (s : State) (offset v n : Nat) (h : ∀ k < n, ∀ b, s.writeByte (offset + k) b = s) :
    s.writeBytes offset v n = s := by
  induction n generalizing offset v with
  | zero => rfl
  | succ n ih =>
    have hfirst : s.writeByte offset (BitVec.ofNat 8 v) = s := h 0 (Nat.succ_pos n) _
    rw [State.writeBytes, hfirst]
    exact ih _ _ fun k hk b => by rw [Nat.add_assoc, Nat.add_comm 1 k]; exact h (k + 1) (Nat.succ_lt_succ hk) b

theorem State.readByte_state (s : State) {j : Nat} (hj : j < 200) :
    s.readByte (0x100 + j) = if s.phase = .idle then s.lanes.byte j else 0 := by
  rw [State.readByte, if_pos (by omega), Nat.add_sub_cancel_left]

theorem State.writeByte_state (s : State) {j : Nat} (hj : j < 200) (b : Byte) :
    s.writeByte (0x100 + j) b = if s.phase = .idle then { s with lanes := s.lanes.setByte j b } else s := by
  rw [State.writeByte, if_pos (by omega), Nat.add_sub_cancel_left]

theorem State.readByte_data (s : State) {k : Nat} (hk : k < 256) : s.readByte (0x200 + k) = s.dataRead k := by
  rw [State.readByte, if_neg (by omega), if_pos (by omega), Nat.add_sub_cancel_left]

theorem State.writeByte_data (s : State) {k : Nat} (hk : k < 256) (b : Byte) :
    s.writeByte (0x200 + k) b = { s with data := s.data.write k b } := by
  rw [State.writeByte, if_neg (by omega), if_pos (by omega), Nat.add_sub_cancel_left]

theorem State.readByte_reserved (s : State) {offset : Nat} (h : (0x1C8 ≤ offset ∧ offset < 0x200) ∨ 0x300 ≤ offset) :
    s.readByte offset = 0 := by
  rw [State.readByte, if_neg (by omega), if_neg (by omega)]

theorem State.writeByte_reserved (s : State) {offset : Nat} (h : (0x1C8 ≤ offset ∧ offset < 0x200) ∨ 0x300 ≤ offset) (b : Byte) :
    s.writeByte offset b = s := by
  rw [State.writeByte, if_neg (by omega), if_neg (by omega)]

/-- A write to the open STATE window sets the bytes it covers and no other (R78). -/
theorem State.writeBytes_state (n : Nat) (s : State) (j v : Nat) (hidle : s.phase = .idle) (hj : j + n ≤ 200) :
    ∃ B : Lanes, s.writeBytes (0x100 + j) v n = { s with lanes := B } ∧
      ∀ k, B.byte k = if j ≤ k ∧ k < j + n then BitVec.ofNat 8 (v / 2 ^ (8 * (k - j))) else s.lanes.byte k := by
  induction n generalizing s j v with
  | zero => exact ⟨s.lanes, rfl, fun k => (if_neg (by omega)).symm⟩
  | succ n ih =>
    obtain ⟨B, hB, hbyte⟩ := ih { s with lanes := s.lanes.setByte j (BitVec.ofNat 8 v) } (j + 1) (v / 2 ^ 8) hidle (by omega)
    refine ⟨B, ?_, fun k => ?_⟩
    · rw [State.writeBytes, s.writeByte_state (by omega), if_pos hidle]
      exact hB
    · rw [hbyte]
      change (if _ then _ else (s.lanes.setByte j (BitVec.ofNat 8 v)).byte k) = _
      rw [Lanes.byte_setByte _ _ _ _ (by omega)]
      by_cases hlater : j + 1 ≤ k ∧ k < j + 1 + n
      · rw [if_pos hlater, if_pos (by omega), Nat.div_div_eq_div_mul, ← Nat.pow_add, show 8 + 8 * (k - (j + 1)) = 8 * (k - j) by omega]
      · rw [if_neg hlater]
        by_cases hfirst : k = j
        · subst hfirst
          simp
        · rw [if_neg hfirst, if_neg (by omega)]

/-- Settles O53: in IDLE byte by byte; otherwise no byte is read or written. -/
theorem stateWindow : Obligations.StateWindow := by
  intro s j n v hn hj
  have hn4 : n ≤ 4 := by omega
  have hwindow : 0x100 ≤ 0x100 + j := Nat.le_add_right _ _
  rw [s.busWrite_of_window hwindow]
  refine ⟨fun hidle => ⟨fun k hk => ?_, s.toNat_busRead_lt hwindow hn4, ?_⟩, fun hopen => ⟨?_, ?_⟩⟩
  · rw [s.busRead_byte hwindow hn4 hk, Nat.add_assoc, s.readByte_state (by omega), if_pos hidle]
  · obtain ⟨B, hB, hbyte⟩ := s.writeBytes_state n j v.toNat hidle hj
    exact ⟨B, hB, fun k _ => by rw [hbyte, extractLsb'_eq_ofNat]⟩
  · exact s.busRead_eq_zero hwindow fun k hk => by rw [Nat.add_assoc, s.readByte_state (by omega), if_neg hopen]
  · exact s.writeBytes_eq_self _ _ _ fun k hk b => by rw [Nat.add_assoc, s.writeByte_state (by omega), if_neg hopen]

/-- A state byte is a slice of its lane (R32). -/
theorem Lanes.byte_eq_extractLsb' (A : Lanes) (i : Nat) {m : Nat} (hm : m < 8) : A.byte (8 * i + m) = (A.lane i).extractLsb' (8 * m) 8 := by
  rw [Lanes.byte, show (8 * i + m) / 8 = i by omega, show (8 * i + m) % 8 = m by omega]
  apply BitVec.eq_of_toNat_eq
  simp

/-- Two words with the same four bytes are equal. -/
theorem Word.ext_byte {x y : Word} (h : ∀ k < 4, x.extractLsb' (8 * k) 8 = y.extractLsb' (8 * k) 8) : x = y := by
  apply BitVec.eq_of_getLsbD_eq
  intro i hi
  have hbit := congrArg (BitVec.getLsbD · (i % 8)) (h (i / 8) (by omega))
  have hlt : i % 8 < 8 := Nat.mod_lt _ (by decide)
  simpa only [BitVec.getLsbD_extractLsb', hlt, decide_true, Bool.true_and, Nat.div_add_mod] using hbit

/-- Four state bytes of a lane, read at once. -/
theorem State.busRead_halfLane (s : State) {i half : Nat} (hi : i < 25) (hhalf : half = 0 ∨ half = 4) (hidle : s.phase = .idle) :
    s.busRead (0x100 + (8 * i + half)) 4 = (s.lanes.lane i).extractLsb' (8 * half) 32 := by
  apply Word.ext_byte
  intro k hk
  rw [s.busRead_byte (Nat.le_add_right _ _) (Nat.le_refl 4) hk, Nat.add_assoc, s.readByte_state (by omega), if_pos hidle, Nat.add_assoc,
    Lanes.byte_eq_extractLsb' _ _ (by omega), Nat.mul_add]
  apply BitVec.eq_of_getLsbD_eq
  intro b hb
  have hlt : 8 * k + b < 32 := by omega
  simp [hb, hlt, Nat.add_assoc]

/-- Settles O54: the two halves of a lane, four bytes each. -/
theorem stateWindowLanes : Obligations.StateWindowLanes := by
  intro s i hi hidle
  have hhigh := s.busRead_halfLane hi (.inr rfl) hidle
  rw [show 0x100 + (8 * i + 4) = 0x104 + 8 * i by omega] at hhigh
  exact ⟨s.busRead_halfLane hi (.inl rfl) hidle, hhigh⟩

theorem State.dataRead_write (s : State) (k : Nat) (b : Byte) (a : Nat) :
    State.dataRead { s with data := s.data.write k b } a = if a = k then b else s.dataRead a := by
  simp only [State.dataRead, Memory.read_write]
  split <;> rfl

/-- A write to DATA stores the bytes of the value, and nothing changes but the bytes it covers (R79). -/
theorem State.writeBytes_data (n : Nat) (s : State) (k v : Nat) (hk : k + n ≤ 256) :
    (∃ m : Memory, s.writeBytes (0x200 + k) v n = { s with data := m }) ∧
    ∀ a, (s.writeBytes (0x200 + k) v n).dataRead a =
      if k ≤ a ∧ a < k + n then BitVec.ofNat 8 (v / 2 ^ (8 * (a - k))) else s.dataRead a := by
  refine ⟨s.writeBytes_inData n _ v (by omega) (by omega), ?_⟩
  induction n generalizing s k v with
  | zero => exact fun a => (if_neg (by omega)).symm
  | succ n ih =>
    intro a
    rw [State.writeBytes, s.writeByte_data (by omega), Nat.add_assoc, ih _ _ _ (by omega),
      State.dataRead_write]
    by_cases hlater : k + 1 ≤ a ∧ a < k + 1 + n
    · rw [if_pos hlater, if_pos (by omega), Nat.div_div_eq_div_mul, ← Nat.pow_add, show 8 + 8 * (a - (k + 1)) = 8 * (a - k) by omega]
    · rw [if_neg hlater]
      by_cases hfirst : a = k
      · subst hfirst
        simp
      · rw [if_neg hfirst, if_neg (by omega)]

/-- Settles O55: read after write, byte by byte. -/
theorem dataReadAfterWrite : Obligations.DataReadAfterWrite := by
  intro s k n v hn hk
  have hwindow : 0x100 ≤ 0x200 + k := by omega
  rw [s.busWrite_of_window hwindow]
  obtain ⟨hdata, hread⟩ := s.writeBytes_data n k v.toNat hk
  have hcovered (j : Nat) (hj : j < n) :
      (s.writeBytes (0x200 + k) v.toNat n).dataRead (k + j) = BitVec.ofNat 8 (v.toNat / 2 ^ (8 * j)) := by
    rw [hread, if_pos (by omega), Nat.add_sub_cancel_left]
  refine ⟨?_, fun j hj => (hcovered j hj).trans (extractLsb'_eq_ofNat v _ _).symm, fun a ha => (hread a).trans (if_neg ha), hdata⟩
  rw [State.toNat_busRead _ hwindow (by omega), ← littleEndian_bytes n v.toNat]
  refine congrArg littleEndian (List.map_congr_left fun j hj => ?_)
  have hj := List.mem_range.1 hj
  rw [Nat.add_assoc, State.readByte_data _ (by omega), hcovered j hj]

/-- Settles O56: no byte of the two ranges is read or written. -/
theorem reservedRanges : Obligations.ReservedRanges := by
  intro s o n v hn ho
  have hwindow : 0x100 ≤ o := by omega
  rw [s.busWrite_of_window hwindow]
  exact ⟨s.busRead_eq_zero hwindow fun k hk => s.readByte_reserved (by omega),
    s.writeBytes_eq_self _ _ _ fun k hk b => s.writeByte_reserved (by omega) b⟩

end Sys2Proof.Machine
end
